-- ==== Sys2Proof/Word.lean ====
section
/-! DEFINITION. The words of the controller: bytes, 16-bit values, 32-bit registers and descriptor words
(spec/20_memory.md rule R73). -/

namespace Sys2Proof

/-- A byte of a wire header, of `ARENA`, of `HOSTMEM`. -/
abbrev Byte := BitVec 8

/-- A 16-bit value: a failure-table entry, a transaction id, a result code. -/
abbrev Half := BitVec 16

/-- A 32-bit word: a command word, a register of the command port, a descriptor word. -/
abbrev Word := BitVec 32

end Sys2Proof
end

