-- ==== Sys2Proof/Syntax.lean ====
section
/-! DEFINITION. The host commands, one constructor per row of spec/opcode_table.json (spec/30_encoding.md
rule R104). The operands are those that ride in the command word; the others are read from `ARG_*`. -/

namespace Sys2Proof

/-- The commands. A cookie handle is a natural (rule R102: `COOKIE` is zero-extended), a port is a signed
number (rule R102: `IMM8` is sign-extended), the instruction byte is used as it stands. -/
inductive Instr where
  /-- RESET, rule R150 -/
  | reset
  /-- IS_ACTIVE, rule R158 -/
  | isActive
  /-- SET_PORT, rule R160 -/
  | setPort (port : Int)
  /-- SEND_COMMAND, rule R180 -/
  | sendCommand (c : Nat) (instruction : Byte)
  /-- GET_REPLY, rule R210 -/
  | getReply (c : Nat)
  /-- SEND_COMMAND_BLOCKING, rule R280 -/
  | sendCommandBlocking (c : Nat)
  /-- SET_PORT_ADDR, rule R168 -/
  | setPortAddr (port : Int)
  /-- OPEN, rule R290 (`open` is a word of Lean) -/
  | openCookie
  /-- REOPEN, rule R293 -/
  | reOpen (c : Nat)
  /-- CLOSE, rule R295 -/
  | close (c : Nat)
  /-- SET_ADDRESS, rule R297 -/
  | setAddress (c : Nat)
  /-- GET_ADDRESS, rule R298 -/
  | getAddress (c : Nat)
  /-- SEND_WRITE, rule R312 -/
  | sendWrite (c : Nat)
  /-- GET_WRITE_REPLY, rule R313 -/
  | getWriteReply (c : Nat)
  /-- SEND_READ, rule R314 -/
  | sendRead (c : Nat)
  /-- GET_READ_REPLY, rule R315 -/
  | getReadReply (c : Nat)
  /-- WRITE_BLOCKING, rule R316 -/
  | writeBlocking (c : Nat)
  /-- READ_BLOCKING, rule R317 -/
  | readBlocking (c : Nat)
  /-- RESET_VIA_COOKIE, rule R319 -/
  | resetViaCookie (c : Nat)
  deriving DecidableEq, Repr

end Sys2Proof
end

