-- ==== Sys2Proof/WellFormed.lean ====
section
/-! DEFINITION. Which commands the command word can carry (spec/30_encoding.md rules R101, R102). -/

namespace Sys2Proof

/-- A cookie handle fits the 8-bit field `COOKIE` (rule R101). -/
def handleFits (c : Nat) : Bool := decide (c < 256)

/-- A port fits the signed 8-bit reading of `IMM8` (rule R102). -/
def portFits (port : Int) : Bool := decide (-128 ≤ port) && decide (port ≤ 127)

/-- Every operand of the command fits its field. -/
def Instr.wellFormed : Instr → Bool
  | .reset => true
  | .isActive => true
  | .setPort port => portFits port
  | .sendCommand c _ => handleFits c
  | .getReply c => handleFits c
  | .sendCommandBlocking c => handleFits c
  | .setPortAddr port => portFits port
  | .openCookie => true
  | .reOpen c => handleFits c
  | .close c => handleFits c
  | .setAddress c => handleFits c
  | .getAddress c => handleFits c
  | .sendWrite c => handleFits c
  | .getWriteReply c => handleFits c
  | .sendRead c => handleFits c
  | .getReadReply c => handleFits c
  | .writeBlocking c => handleFits c
  | .readBlocking c => handleFits c
  | .resetViaCookie c => handleFits c

end Sys2Proof
end

