-- ==== Sys2Proof/Decode.lean ====
section
/-! DEFINITION. The command word: decoder and encoder (spec/30_encoding.md rules R100 to R106). The decoder is
total on 32-bit words and rejects by name; a rejected word is an illegal command (rule R105). -/

namespace Sys2Proof

/-- Why a word matches no row of rule R104 (rule R105). -/
inductive IllegalWord where
  /-- no row has this `OP` -/
  | unknownOpcode
  /-- the field `ZERO` is not 0 -/
  | zeroFieldNotZero
  /-- the command takes no cookie and `COOKIE` is not 0 -/
  | cookieNotZero
  /-- the command takes no immediate and `IMM8` is not 0 -/
  | immNotZero
  deriving DecidableEq, Repr

/-- Field `OP` (rule R101). -/
def opField (w : Word) : Byte := w.extractLsb' 0 8

/-- Field `COOKIE` (rule R101). -/
def cookieField (w : Word) : Byte := w.extractLsb' 8 8

/-- Field `IMM8` (rule R101). -/
def immField (w : Word) : Byte := w.extractLsb' 16 8

/-- Field `ZERO` (rule R101). -/
def zeroField (w : Word) : Byte := w.extractLsb' 24 8

/-- The handle of `COOKIE`: zero-extended to a natural (rule R102). -/
def handleOf (w : Word) : Nat := (cookieField w).toNat

/-- The port of `IMM8`: sign-extended, read as a signed number (rule R102). -/
def portOf (w : Word) : Int := (immField w).toInt

/-- A command that uses neither `COOKIE` nor `IMM8`. -/
def decodePlain (w : Word) (i : Instr) : Except IllegalWord Instr :=
  if cookieField w ≠ 0 then .error .cookieNotZero
  else if immField w ≠ 0 then .error .immNotZero
  else .ok i

/-- A command that uses `COOKIE` only. -/
def decodeCookie (w : Word) (i : Nat → Instr) : Except IllegalWord Instr :=
  if immField w ≠ 0 then .error .immNotZero else .ok (i (handleOf w))

/-- A command that uses `IMM8` only, as a port. -/
def decodePort (w : Word) (i : Int → Instr) : Except IllegalWord Instr :=
  if cookieField w ≠ 0 then .error .cookieNotZero else .ok (i (portOf w))

/-- The decoder: rule R104, row by row. -/
def decode (w : Word) : Except IllegalWord Instr :=
  if zeroField w ≠ 0 then .error .zeroFieldNotZero
  else match (opField w).toNat with
    | 0x01 => decodePlain w .reset
    | 0x02 => decodePlain w .isActive
    | 0x03 => decodePort w .setPort
    | 0x04 => .ok (.sendCommand (handleOf w) (immField w))
    | 0x05 => decodeCookie w .getReply
    | 0x06 => decodeCookie w .sendCommandBlocking
    | 0x07 => decodePort w .setPortAddr
    | 0x10 => decodePlain w .openCookie
    | 0x11 => decodeCookie w .reOpen
    | 0x12 => decodeCookie w .close
    | 0x13 => decodeCookie w .setAddress
    | 0x14 => decodeCookie w .getAddress
    | 0x20 => decodeCookie w .sendWrite
    | 0x21 => decodeCookie w .getWriteReply
    | 0x22 => decodeCookie w .sendRead
    | 0x23 => decodeCookie w .getReadReply
    | 0x24 => decodeCookie w .writeBlocking
    | 0x25 => decodeCookie w .readBlocking
    | 0x26 => decodeCookie w .resetViaCookie
    | _ => .error .unknownOpcode

/-- The word of rule R101 with the given `OP`, `COOKIE` and `IMM8`, most significant field first. -/
def commandWord (op cookie imm : Byte) : Word := (((0 : Byte) ++ imm) ++ cookie) ++ op

/-- A handle as the field `COOKIE`. -/
def encodeHandle (c : Nat) : Byte := BitVec.ofNat 8 c

/-- A port as the field `IMM8`: two's complement (spec/00_scope.md rule R11). -/
def encodePort (port : Int) : Byte := BitVec.ofInt 8 port

/-- The encoder, from the `OP` numbers and fields of rule R104. -/
def encode : Instr → Word
  | .reset => commandWord 0x01 0 0
  | .isActive => commandWord 0x02 0 0
  | .setPort port => commandWord 0x03 0 (encodePort port)
  | .sendCommand c instruction => commandWord 0x04 (encodeHandle c) instruction
  | .getReply c => commandWord 0x05 (encodeHandle c) 0
  | .sendCommandBlocking c => commandWord 0x06 (encodeHandle c) 0
  | .setPortAddr port => commandWord 0x07 0 (encodePort port)
  | .openCookie => commandWord 0x10 0 0
  | .reOpen c => commandWord 0x11 (encodeHandle c) 0
  | .close c => commandWord 0x12 (encodeHandle c) 0
  | .setAddress c => commandWord 0x13 (encodeHandle c) 0
  | .getAddress c => commandWord 0x14 (encodeHandle c) 0
  | .sendWrite c => commandWord 0x20 (encodeHandle c) 0
  | .getWriteReply c => commandWord 0x21 (encodeHandle c) 0
  | .sendRead c => commandWord 0x22 (encodeHandle c) 0
  | .getReadReply c => commandWord 0x23 (encodeHandle c) 0
  | .writeBlocking c => commandWord 0x24 (encodeHandle c) 0
  | .readBlocking c => commandWord 0x25 (encodeHandle c) 0
  | .resetViaCookie c => commandWord 0x26 (encodeHandle c) 0

/-- A row of the table of rule R104: a word selects it when `w &&& mask = pattern`. -/
structure OpcodeRow where
  mask : Word
  pattern : Word
  deriving DecidableEq, Repr

/-- The columns `mask` and `match` of rule R104, in the table's order. -/
def opcodeRows : List OpcodeRow :=
  [⟨0xFFFFFFFF, 0x00000001⟩, ⟨0xFFFFFFFF, 0x00000002⟩, ⟨0xFF00FFFF, 0x00000003⟩, ⟨0xFF0000FF, 0x00000004⟩,
   ⟨0xFFFF00FF, 0x00000005⟩, ⟨0xFFFF00FF, 0x00000006⟩, ⟨0xFF00FFFF, 0x00000007⟩, ⟨0xFFFFFFFF, 0x00000010⟩,
   ⟨0xFFFF00FF, 0x00000011⟩, ⟨0xFFFF00FF, 0x00000012⟩, ⟨0xFFFF00FF, 0x00000013⟩, ⟨0xFFFF00FF, 0x00000014⟩,
   ⟨0xFFFF00FF, 0x00000020⟩, ⟨0xFFFF00FF, 0x00000021⟩, ⟨0xFFFF00FF, 0x00000022⟩, ⟨0xFFFF00FF, 0x00000023⟩,
   ⟨0xFFFF00FF, 0x00000024⟩, ⟨0xFFFF00FF, 0x00000025⟩, ⟨0xFFFF00FF, 0x00000026⟩]

/-- The word selects the row (rule R104). -/
def OpcodeRow.selects (r : OpcodeRow) (w : Word) : Bool := w &&& r.mask == r.pattern

/-- The instruction the decoder reads from an instruction whose bits are `w`, numbered as
spec/opcode_table.json numbers them; a command is one 32-bit word (rule R106) and bits above `nbits` are 0. -/
def decodeTableWord (nbits w : Nat) : Option Instr :=
  match decode (BitVec.ofNat 32 (w % 2 ^ nbits)) with
  | .ok i => some i
  | .error _ => none

end Sys2Proof
end

