-- ==== Sys2Proof/Config.lean ====
section
/-! DEFINITION. What an implementation fixes (spec/00_scope.md rules R7, R8) and the free values, the values
no rule of the spec states. A free value is a constant without a body: nothing can evaluate it. -/

namespace Sys2Proof

/-! ## The checksum (spec/43_validator.md rules R260 to R262) -/

/-- `q` is `p` with exactly one byte changed to another value. -/
def OneByteChanged (p q : List Byte) : Prop :=
  ∃ k v, k < p.length ∧ p.getD k 0 ≠ v ∧ q = p.set k v

/-- The laws of rule R261 every admissible checksum satisfies, constraint (d) of spec/00_scope.md rule R8. Law (c)
is said of the two checks of rules R258 and R259. -/
structure CrcLaws (crc : List Byte → Byte) : Prop where
  /-- (a) residue -/
  residue : ∀ m : List Byte, crc (m ++ [crc m]) = 0
  /-- (b) chaining -/
  chaining : ∀ a b : List Byte, crc a = 0 → crc (a ++ b) = crc b
  /-- (c) for write replies -/
  writeReply : ∀ p q : List Byte, OneByteChanged p q → p.length = 8 → crc p = 0 → crc q ≠ 0
  /-- (c) for read replies -/
  readReply : ∀ p q : List Byte, OneByteChanged p q → 13 ≤ p.length → crc (p.take 12) = 0 → crc p = 0 →
    ¬(crc (q.take 12) = 0 ∧ crc q = 0)

/-- An admissible checksum: the default, or any function with the laws. Rule R8 (d) is carried by the value. -/
inductive Checksum where
  /-- the default of rule R262 -/
  | rmap
  /-- any function from byte sequences to bytes that satisfies rule R261 -/
  | function (crc : List Byte → Byte) (laws : CrcLaws crc)
  deriving Inhabited

/-! ## The parameters (spec/00_scope.md rules R7, R8) -/

/-- The parameters of rule R7 but `crc8`. `TX_WRAP_SIZE`, `PROTOCOL_ID` and the header sizes are constants
(Machine/Operands.lean). -/
structure Params where
  /-- `MAX_TX`, the capacity of the TX ring -/
  maxTx : Nat
  /-- `MAX_RX`, the capacity of the RX ring -/
  maxRx : Nat
  /-- `ARENA_SIZE`, in bytes -/
  arenaSize : Nat
  /-- `MAX_PACKET_LEN`, in bytes -/
  maxPacketLen : Nat
  /-- `ARENA_HEADROOM`, in bytes -/
  arenaHeadroom : Nat
  /-- `N_PORTS` -/
  nPorts : Nat
  /-- `HW_CRC[p]`, one entry per port -/
  hwCrc : List Bool
  /-- `N_COOKIES` -/
  nCookies : Nat
  /-- `DEST_ADDR_INIT` -/
  destAddrInit : Byte
  /-- `SRC_ADDR_INIT` -/
  srcAddrInit : Byte
  /-- `HAS_HK_MIRROR` -/
  hasHkMirror : Bool
  deriving DecidableEq, Repr

/-- The record `Config` of rule R7: every parameter, `crc8` any function from byte sequences to bytes. Constraint (d) of
rule R8 is carried by the record. The machine of such a record is `stepOf` (Machine/Parameterised.lean). -/
structure Config extends Params where
  /-- `crc8`, the CRC function of the port hardware (rule R260) -/
  crc8 : List Byte → Byte
  /-- (d) -/
  laws : CrcLaws crc8

/-- The ranges of rule R7 and the constraints (a), (b), (c) of rule R8. -/
abbrev Params.InRange (p : Params) : Prop :=
  1 ≤ p.maxTx ∧ p.maxTx < 2 ^ 32 ∧ 1 ≤ p.maxRx ∧ p.maxRx < 2 ^ 32 ∧ p.arenaSize < 2 ^ 32 ∧
    13 ≤ p.maxPacketLen ∧ p.maxPacketLen ≤ 2 ^ 24 + 12 ∧ p.maxPacketLen ≤ p.arenaHeadroom ∧
    1 ≤ p.nPorts ∧ p.nPorts ≤ 127 ∧ p.hwCrc.length = p.nPorts ∧ 1 ≤ p.nCookies ∧ p.nCookies ≤ 255

/-- The parameters are in range. -/
def Params.ok (p : Params) : Bool := decide p.InRange

/-! ## Parameters as plain data -/

/-- A checksum named by plain data (log 3). -/
inductive Crc8Choice where
  /-- the default of rule R262, the CRC of the RMAP standard -/
  | standard
  /-- the byte-wise CRC of a table of 256 entries: any polynomial, either bit order -/
  | table (entries : List Byte)
  /-- any other admissible function, of which nothing but rule R261 is known (`Config.platformCrc8`) -/
  | platform (id : Nat)
  deriving DecidableEq, Repr

/-- Constraint (d) of rule R8 where it can be computed: a table satisfies rule R261 exactly when its first entry is 0
and no entry occurs twice. The other two satisfy it by what they are. -/
def Crc8Choice.ok : Crc8Choice → Bool
  | .standard => true
  | .table entries => decide (entries.length = 256 ∧ entries.getD 0 0 = 0 ∧ entries.Nodup)
  | .platform _ => true

/-- What a state holds of its machine's parameters, plain data (log 1): those of rule R7, and the name of the checksum
that `step`, which takes no `Config`, computes; the function it names is `crc8` (Machine/Validator.lean; log 3). The
machine `stepOf` of a `Config` computes that record's `crc8` and does not look at the name. -/
structure Build extends Params where
  /-- the checksum of `step` -/
  crc : Crc8Choice
  deriving DecidableEq, Repr

/-- The ranges of rule R7 and the constraints of rule R8: (a), (b), (c), and (d), the laws of the checksum, by
`Crc8Choice.ok`. -/
def Build.ok (b : Build) : Bool := decide (b.toParams.InRange ∧ b.crc.ok = true)

/-- The standard configuration S of spec/95_test_vectors.md. DESIGN CHOICE (log 2): the value the parameters
have in `State.reset`. -/
def Build.standard : Build where
  maxTx := 4
  maxRx := 4
  arenaSize := 256
  maxPacketLen := 64
  arenaHeadroom := 64
  nPorts := 2
  hwCrc := [true, true]
  nCookies := 4
  destAddrInit := 0xFE
  srcAddrInit := 0x67
  hasHkMirror := true
  crc := .standard

/-! ## Free values -/

/-- An admissible checksum of which nothing else is known (rule R260: a parameter). Free (log 3). -/
opaque Config.platformCrc8 : Nat → Checksum

/-- What a read of `LINKSTATE` gives when the environment has scripted no value (spec/10_state.md rule R40).
Free (log 9). -/
opaque Config.freeLinkState : Nat → BitVec 3

/-- What a read of `STATUS` gives when the environment has scripted no value (rule R41). Free (log 9). -/
opaque Config.freeStatus : Nat → BitVec 32

/-- By how much `TIMER` has advanced at a read for which the environment has scripted no value (rule R42).
Free (log 10). -/
opaque Config.freeTimerAdvance : Nat → Nat

/-- The bytes a DMA read finds past the end of `HOSTMEM` (spec/20_memory.md rule R79): draw number and
position in the payload. Free (log 11). -/
opaque Config.freeHostByte : Nat → Nat → BitVec 8

/-- What a read of the write-only register `CMD` returns (spec/10_state.md rule R32 states no value): the same word
until a free value has been drawn (spec/20_memory.md rule R76). Free (log 17). -/
opaque Config.freeCmdReadback : Nat → BitVec 32

end Sys2Proof
end

