-- ==== Sys2Proof/Machine/State.lean ====
section
/-! DEFINITION. The state of the controller as plain data (spec/10_state.md rule R20), the codes and events it
reports with, the reasons a step can stop, and the state after power-on. -/

namespace Sys2Proof.Machine

open Sys2Proof

/-! ## Memory -/

/-- A byte space: the listed bytes, addresses strictly rising, no entry equal to the byte an unlisted address
reads as (`Mem.background`, Machine/Memory.lean). -/
abbrev Mem := List Host.Cell

/-! ## Descriptors, headers, contexts -/

/-- A TX descriptor, four words (rule R35). -/
structure TxDesc where
  ctrl : Word
  hptr : Word
  len : Word
  dptr : Word
  deriving DecidableEq, Repr

/-- An RX descriptor, three words (rule R37). -/
structure RxDesc where
  ctrl : Word
  ptr : Word
  len : Word
  deriving DecidableEq, Repr

/-- The command header, sixteen bytes in the order of spec/30_encoding.md rule R110. -/
structure Header where
  destAddress : Byte
  protocol : Byte
  instruction : Byte
  destKey : Byte
  sourceAddress : Byte
  tidH : Byte
  tidL : Byte
  extendedAddress : Byte
  addressHH : Byte
  addressH : Byte
  addressL : Byte
  addressLL : Byte
  datalenH : Byte
  datalenM : Byte
  datalenL : Byte
  headerCrc : Byte
  deriving DecidableEq, Repr

/-- A cookie context (rule R51). `TXDESC` and `RXDESC_INDEX` are indices into the rings. -/
structure Ctx where
  valid : Bool
  hdr : Header
  addr : Word
  ext : Byte
  mask : Byte
  maxlen : Word
  txdValid : Bool
  txdesc : Nat
  rxdescIndex : Nat
  deriving DecidableEq, Repr

/-- The hardware registers of one port (rule R33). -/
structure PortHw where
  maxPktLen : Nat
  srcAddr : Byte
  deriving DecidableEq, Repr

/-- All four words 0 (rule R60). -/
def TxDesc.zero : TxDesc := ⟨0, 0, 0, 0⟩

/-- All three words 0 (rule R60). -/
def RxDesc.zero : RxDesc := ⟨0, 0, 0⟩

/-- Sixteen zero bytes (spec/45_context.md rule R292). -/
def Header.zero : Header := ⟨0, 0, 0, 0, 0, 0, 0, 0, 0, 0, 0, 0, 0, 0, 0, 0⟩

/-- A free context with every field 0 (rule R51). -/
def Ctx.zero : Ctx := ⟨false, Header.zero, 0, 0, 0, 0, false, 0, 0⟩

/-! ## Result codes and events -/

/-- The result codes of spec/60_exceptions.md rule R351. -/
inductive Code where
  | ok
  | commandNoChannel
  | commandNoDescriptorsAvailable
  | commandBufferFull
  | commandChannelDeactivated
  | commandPortOutOfRange
  /-- defined, raised by no rule (spec/40_channel_control.md rule R164) -/
  | commandPortInUse
  | noHwCrc
  | replyNoReply
  | replyNotSent
  | replyNotYetSent
  | replyMissmatch
  | replyTimeout
  | linkDown
  | commandNullpointer
  | illegalCommand
  | noFreeCookie
  /-- the nine codes `SPW_CREDIT` to `SPW_LINK_ERROR`, `k` from 0: defined, raised by no rule (rule R371) -/
  | spw (k : Fin 9)
  /-- `RMAP_STD(s)`, `1 ≤ s` (rule R352) -/
  | rmapStd (s : Byte)
  deriving DecidableEq, Repr

/-- The eleven failures of the failure table, in the order of spec/10_state.md rule R39. -/
inductive Failure where
  | eep
  | trunc
  | len
  | crc
  | destAddr
  | protocol
  | instrType
  | instr
  | srcAddr
  | lenMismatch
  | wrongReply
  deriving DecidableEq, Repr

/-- The events of spec/60_exceptions.md rule R362. -/
inductive EventKind where
  | linkDown
  | spwCredit
  | spwEscape
  | spwDisconnect
  | spwParity
  | spwWriteSync
  | spwInvalidAddress
  | spwEarlyEop
  | dmaError
  | missedReplies
  | rxFailure (f : Failure)
  | portSwitch
  | noRxDescriptors
  | txLinkError
  deriving DecidableEq, Repr

/-- An event and its parameter (rule R360). A port of -1 is a parameter, so it is signed. -/
structure Event where
  kind : EventKind
  param : Int
  deriving DecidableEq, Repr

/-! ## The environment -/

/-- What the environment can do next. -/
inductive Input where
  /-- the host writes a word at a byte offset of the command port (spec/10_state.md rule R32) -/
  | write (offset : Word) (v : Word)
  /-- the host reads a word at a byte offset of the command port -/
  | read (offset : Word)
  /-- the host changes one byte of its own memory (rule R44) -/
  | hostMem (a : Word) (b : Byte)
  /-- `DMA_TX t` (spec/47_dma_agent.md rule R333) -/
  | dmaTx (t : Nat)
  /-- `DMA_TX_ERR t` (rule R335) -/
  | dmaTxErr (t : Nat)
  /-- `DMA_RX i pkt eep` (rule R336) -/
  | dmaRx (i : Nat) (pkt : List Byte) (eep : Bool)
  /-- the environment lets the sequencer take a turn: a poll of a blocking command -/
  | poll
  deriving DecidableEq, Repr

/-- The command sequencer (spec/10_state.md rule R21, spec/44_blocking.md rule R281). -/
inductive Sequencer where
  /-- idle: waiting for a command word -/
  | idle
  /-- a blocking command runs: its cookie, the timer at its start, its timeout -/
  | blocking (c start timeout : Nat)
  deriving DecidableEq, Repr

/-! ## State -/

/-- The controller registers (rules R23 to R29). -/
structure Regs where
  /-- `PORT`, signed 8 bits, -1 when no port is bound -/
  port : Byte
  destAddr : Byte
  srcAddr : Byte
  /-- `HK_PORT`, signed 8 bits, present only with `HAS_HK_MIRROR` -/
  hkPort : Byte
  txIndex : Nat
  rxIndex : Nat
  arenaPtr : Nat
  tidNext : Half
  deriving DecidableEq, Repr

/-- The operand registers (rule R30). -/
structure Args where
  ptr : Word
  len : Word
  timeout : Word
  addr : Word
  misc : Word
  maxlen : Word
  deriving DecidableEq, Repr

/-- The result registers (rule R31). -/
structure Results where
  result : Half
  replyPtr : Word
  replyLen : Word
  retVal : Word
  deriving DecidableEq, Repr

/-- The model's own fields: what the environment does next and what the input lines give (log 8 to 12, 18). -/
structure Env where
  /-- what the environment does next, oldest first -/
  agenda : List Input
  /-- what the next reads of `LINKSTATE` give (rule R40) -/
  linkDraws : List (BitVec 3)
  /-- what the next reads of `STATUS` give (rule R41) -/
  statusDraws : List Word
  /-- by how much `TIMER` advances before each of its next reads (rule R42) -/
  timerDraws : List Nat
  /-- the last value read from `TIMER` -/
  timer : Nat
  /-- how many free values have been drawn -/
  freeCount : Nat
  /-- the word the last register read returned to the host -/
  readData : Word
  deriving DecidableEq, Repr

/-- The machine (rule R20), the parameters it was built with (`cfg`, which nothing writes) and the environment. -/
structure State where
  cfg : Build
  regs : Regs
  args : Args
  res : Results
  tx : List TxDesc
  rx : List RxDesc
  ft : List Half
  arena : Mem
  ctx : List Ctx
  hostMem : Mem
  portReg : List PortHw
  events : List Event
  wire : List (List Byte)
  seq : Sequencer
  env : Env
  deriving DecidableEq, Repr

/-! ## Why a step stops -/

/-- Faults. None belongs to the controller, whose errors are result codes (spec/60_exceptions.md rule R350). -/
inductive Fault where
  /-- A descriptor or a context holds a pointer or an index that names nothing the machine has: arena bytes past
  `ARENA_SIZE`, a handle past `N_COOKIES`, a slot past its ring. Raised by `guardPointers` before a command, a
  poll or a DMA step that follows such pointers. Safe: spec/20_memory.md rule R79 says it cannot arise, and no
  state reached from power-on holds one (log 15). -/
  | addressOutOfRange
  deriving DecidableEq, Repr

/-- Refusals. -/
inductive Refusal where
  /-- An instruction without a meaning yet: raised by no arm of `exec`. Safe. -/
  | notModelled (mnemonic : String)
  /-- The parameters break spec/00_scope.md rule R8, which says the model refuses them, or are out of a range of rule R7
  (log 1). Raised by `step` and `stepOf`. Safe. -/
  | configOutOfRange
  /-- The environment proposes a DMA step on a descriptor that is not enabled or with no port bound: no such step
  exists (spec/47_dma_agent.md rule R331). Raised by the DMA steps. Safe (log 14). -/
  | dmaNotEnabled
  deriving DecidableEq, Repr

/-! ## Power-on -/

/-- What spec/70_reset_and_hazards.md rule R390 leaves unspecified at power-on, with the host's memory and the
environment, which are not the controller's to reset. -/
structure Unspecified where
  tidNext : Half
  arena : Mem
  portReg : List PortHw
  hostMem : Mem
  env : Env
  deriving DecidableEq, Repr

/-- The state after power-on (spec/10_state.md rule R60): for every parameter record and every value of what the
rule leaves unspecified. -/
def State.powerOn (cfg : Build) (u : Unspecified) : State where
  cfg := cfg
  regs := { port := 0xFF, destAddr := cfg.destAddrInit, srcAddr := cfg.srcAddrInit, hkPort := 0xFF,
            txIndex := 0, rxIndex := 0, arenaPtr := 0, tidNext := u.tidNext }
  args := ⟨0, 0, 0, 0, 0, 0⟩
  res := ⟨0, 0, 0, 0⟩
  tx := List.replicate cfg.maxTx TxDesc.zero
  rx := List.replicate cfg.maxRx RxDesc.zero
  ft := List.replicate cfg.maxRx 0
  arena := u.arena
  ctx := List.replicate cfg.nCookies Ctx.zero
  hostMem := u.hostMem
  portReg := u.portReg
  events := []
  wire := []
  seq := .idle
  env := u.env

/-- DESIGN CHOICE (log 4 to 8, 10, 12, 18): everything the spec leaves unspecified at zero, nothing scripted. -/
def Unspecified.zero (cfg : Build) : Unspecified where
  tidNext := 0
  arena := []
  portReg := List.replicate cfg.nPorts ⟨0, 0⟩
  hostMem := []
  env := ⟨[], [], [], [], 0, 0, 0⟩

/-- The machine right after reset: power-on of the standard configuration (log 2). -/
def State.reset : State := State.powerOn Build.standard (Unspecified.zero Build.standard)

end Sys2Proof.Machine
end

