-- ==== Sys2Proof/Machine/Memory.lean ====
section
/-! DEFINITION. The two byte spaces `ARENA` and `HOSTMEM` (spec/10_state.md rules R22, R43, R44): reading and
writing, and the canonical form of their cells. Addresses are naturals, so nothing wraps here; how far each
space reaches is the user's matter (`pointersInRange`, `hostBytes`). -/

namespace Sys2Proof.Machine

open Sys2Proof

/-- What an unlisted byte reads as. DESIGN CHOICE (log 5, 7): the spec leaves the contents unspecified. -/
def Mem.background : Byte := 0

/-- The byte at an address. -/
def Mem.read : Mem → Nat → Byte
  | [], _ => Mem.background
  | (b, v) :: rest, a => if a = b then v else Mem.read rest a

/-- A listed byte, or nothing where it is the background. -/
def Mem.cell (a : Nat) (v : Byte) (rest : Mem) : Mem :=
  if v = Mem.background then rest else (a, v) :: rest

/-- One byte stored; the cells keep their canonical form. -/
def Mem.write : Mem → Nat → Byte → Mem
  | [], a, v => Mem.cell a v []
  | (b, w) :: rest, a, v =>
    if a < b then Mem.cell a v ((b, w) :: rest)
    else if a = b then Mem.cell a v rest
    else (b, w) :: Mem.write rest a v

/-- `MemRead(S, a, n)` (spec/00_scope.md rule R12). -/
def Mem.readBytes (m : Mem) (a : Nat) : Nat → List Byte
  | 0 => []
  | n + 1 => m.read a :: Mem.readBytes m (a + 1) n

/-- `MemWrite(S, a, n, v)` for the bytes `v` (rule R12). -/
def Mem.writeBytes (m : Mem) (a : Nat) : List Byte → Mem
  | [] => m
  | v :: vs => Mem.writeBytes (m.write a v) (a + 1) vs

/-- The cells from `lo` on: addresses strictly rising from `lo`, no background byte listed. -/
def Mem.wfFrom (lo : Nat) : Mem → Bool
  | [] => true
  | (a, v) :: rest => decide (lo ≤ a) && decide (v ≠ Mem.background) && Mem.wfFrom (a + 1) rest

/-- The canonical form: equal contents are equal cells. -/
def Mem.wf (m : Mem) : Bool := Mem.wfFrom 0 m

/-- No cell at or past `hi`. -/
def Mem.below (hi : Nat) (m : Mem) : Bool := m.all fun c => decide (c.1 < hi)

end Sys2Proof.Machine
end

