-- ==== Sys2Proof/Machine/Flags.lean ====
section
/-! DEFINITION. The flags of the controller (spec/10_state.md rule R55): descriptor control bits (R35, R37, R38),
failure-table bits (R39), the bits of the instruction byte (spec/30_encoding.md rules R113, R114) and of the
input `STATUS` (spec/10_state.md rule R41). There are no condition codes. -/

namespace Sys2Proof.Machine

open Sys2Proof

/-! ## TX descriptor (rule R35) -/

/-- `EN`, bit 0 -/
def TxDesc.en (d : TxDesc) : Bool := d.ctrl.getLsbD 0
/-- `LE`, bit 1 -/
def TxDesc.le (d : TxDesc) : Bool := d.ctrl.getLsbD 1
/-- `HC`, bit 2 -/
def TxDesc.hc (d : TxDesc) : Bool := d.ctrl.getLsbD 2
/-- `DC`, bit 3 -/
def TxDesc.dc (d : TxDesc) : Bool := d.ctrl.getLsbD 3

/-- `CTRL` of a programmed write: `EN`, `HC`, `DC` (spec/30_encoding.md rule R125) -/
def txCtrlWrite : Word := 0x0000000D
/-- `CTRL` of a programmed read: `EN`, `HC` (rule R125) -/
def txCtrlRead : Word := 0x00000005

/-- `EN` cleared, nothing else changed (spec/47_dma_agent.md rule R333). -/
def TxDesc.sent (d : TxDesc) : TxDesc := { d with ctrl := d.ctrl &&& ~~~(0x1 : Word) }

/-- `LE` set, `EN` cleared (rule R335). -/
def TxDesc.failed (d : TxDesc) : TxDesc := { d with ctrl := (d.ctrl ||| 0x2) &&& ~~~(0x1 : Word) }

/-! ## RX descriptor (rules R37, R38) -/

/-- `EN`, bit 0 -/
def RxDesc.en (d : RxDesc) : Bool := d.ctrl.getLsbD 0
/-- `EEP`, bit 1 -/
def RxDesc.eep (d : RxDesc) : Bool := d.ctrl.getLsbD 1
/-- `TRUNC`, bit 2 -/
def RxDesc.trunc (d : RxDesc) : Bool := d.ctrl.getLsbD 2

/-- `CTRL` of a reserved slot: `EN` (spec/30_encoding.md rule R125) -/
def rxCtrlReserved : Word := 0x00000001

/-- All three words 0 (rule R38). -/
def RxDesc.allZero (d : RxDesc) : Bool := d.ctrl == 0 && d.ptr == 0 && d.len == 0

/-- Completed and not all-zero (rule R38). -/
def RxDesc.ready (d : RxDesc) : Bool := !d.en && !d.allZero

/-- What `DMA_RX` leaves of a descriptor: `n` bytes stored, `TRUNC` and `EEP` as given, `EN` cleared
(spec/47_dma_agent.md rule R336). -/
def RxDesc.received (d : RxDesc) (n : Nat) (trunc eep : Bool) : RxDesc :=
  { d with
    len := BitVec.ofNat 32 n
    ctrl := (d.ctrl &&& ~~~(0x7 : Word)) ||| (if eep then 0x2 else 0) ||| (if trunc then 0x4 else 0) }

/-! ## Failure table (rule R39) -/

/-- The bit of a failure in a failure-table entry. -/
def Failure.bit : Failure → Nat
  | .eep => 1
  | .trunc => 2
  | .len => 3
  | .crc => 4
  | .destAddr => 5
  | .protocol => 6
  | .instrType => 7
  | .instr => 8
  | .srcAddr => 9
  | .lenMismatch => 10
  | .wrongReply => 11

/-- The eleven failures by ascending bit. -/
def Failure.all : List Failure :=
  [.eep, .trunc, .len, .crc, .destAddr, .protocol, .instrType, .instr, .srcAddr, .lenMismatch, .wrongReply]

/-- The entry with only this failure's bit set. -/
def Failure.mask (f : Failure) : Half := (1 : Half) <<< f.bit

/-- The failure's mask where its condition holds, else nothing. -/
def Failure.maskIf (f : Failure) (cond : Bool) : Half := if cond then f.mask else 0

/-- `CLASSIFIED`, bit 0 -/
def classifiedBit : Half := 0x0001

/-- The failure bits 1 to 11 (spec/40_channel_control.md rule R156). -/
def failureBits : Half := 0x0FFE

/-- An entry says its slot has been classified. -/
def entryClassified (f : Half) : Bool := f.getLsbD 0

/-- Classified and no failure (rule R39). -/
def entryValidated (f : Half) : Bool := f == 0x0001

/-! ## Instruction byte (spec/30_encoding.md rules R113, R114) -/

/-- `I_INC`, bit 2 -/
def iInc : Byte := 0x04
/-- `I_VERIFY`, bit 3 -/
def iVerify : Byte := 0x08
/-- `I_REPLY`, bit 4 -/
def iReply : Byte := 0x10
/-- `I_WRITE`, bit 5: the mask `W` -/
def iWrite : Byte := 0x20
/-- `I_CMD`, bit 6 -/
def iCmd : Byte := 0x40
/-- `LOW6` -/
def low6 : Byte := 0x3F
/-- `TYPE_BITS` -/
def typeBits : Byte := 0xC0

/-- Bit 5 of an instruction byte: a write. -/
def isWrite (ins : Byte) : Bool := ins.getLsbD 5

/-- `INSTR_WRITE` (spec/46_facade.md rule R310) -/
def instrWrite : Byte := iCmd ||| iWrite ||| iReply

/-- `INSTR_READ` (rule R310): the verify bit is clear -/
def instrRead : Byte := iCmd ||| iReply

/-! ## The inputs `LINKSTATE` and `STATUS` (spec/10_state.md rules R40, R41) -/

/-- `link_run`: the link state is `SPW_STATE_RUN` (rule R40) -/
def linkRun (v : BitVec 3) : Bool := v == 5

/-- The status bits 0 to 6 in ascending order, with the event each is reported by
(spec/40_channel_control.md rule R152). -/
def statusBits : List (Nat × EventKind) :=
  [(0, .spwCredit), (1, .spwEscape), (2, .spwDisconnect), (3, .spwParity), (4, .spwWriteSync),
   (5, .spwInvalidAddress), (6, .spwEarlyEop)]

/-- `STATUS[9:8]`, the DMA-error bits (rule R41) -/
def dmaErrorBits (v : Word) : BitVec 2 := v.extractLsb' 8 2

end Sys2Proof.Machine
end

