-- ==== Sys2Proof/Machine/Operands.lean ====
section
/-! DEFINITION. Operands: how bytes, words and wire fields are taken apart and put together
(spec/00_scope.md rule R11, spec/30_encoding.md rules R102, R110 to R112), the constants of spec/00_scope.md
rule R7, and the fields of `ARG_MISC`. -/

namespace Sys2Proof.Machine

open Sys2Proof

/-! ## Constants of rule R7 -/

/-- `TX_WRAP_SIZE`: the one TX capacity at which the ring wraps (spec/41_send.md rule R188) -/
def txWrapSize : Nat := 64
/-- `PROTOCOL_ID` -/
def protocolId : Byte := 0x01
/-- `WR_REPLY_LEN` -/
def wrReplyLen : Nat := 8
/-- `RD_REPLY_HDR_LEN` -/
def rdReplyHdrLen : Nat := 12
/-- The shortest read reply: header and the data CRC byte (spec/30_encoding.md rule R120) -/
def rdReplyMinLen : Nat := rdReplyHdrLen + 1

/-! ## Bytes and big-endian fields (rules R11, R70, R111, R112) -/

/-- Byte `k` of a value, byte 0 the least significant: `v[8k+7:8k]`. -/
def byteOf {w : Nat} (k : Nat) (v : BitVec w) : Byte := v.extractLsb' (8 * k) 8

/-- `pack16` (rule R111) -/
def pack16 (v : Half) : List Byte := [byteOf 1 v, byteOf 0 v]
/-- `pack24` (rule R111): the value modulo `2^24` -/
def pack24 (v : Word) : List Byte := [byteOf 2 v, byteOf 1 v, byteOf 0 v]
/-- `pack32` (rule R111) -/
def pack32 (v : Word) : List Byte := [byteOf 3 v, byteOf 2 v, byteOf 1 v, byteOf 0 v]

/-- `be16` (rule R11) -/
def be16 (hi lo : Byte) : Nat := hi.toNat * 256 + lo.toNat
/-- `be24` (rule R11) -/
def be24 (a b c : Byte) : Nat := a.toNat * 65536 + b.toNat * 256 + c.toNat
/-- `be32` (rule R11) -/
def be32 (a b c d : Byte) : Nat := a.toNat * 2 ^ 24 + b.toNat * 2 ^ 16 + c.toNat * 2 ^ 8 + d.toNat

/-! ## The command header (rule R110) -/

/-- The sixteen bytes in wire order. -/
def Header.bytes (h : Header) : List Byte :=
  [h.destAddress, h.protocol, h.instruction, h.destKey, h.sourceAddress, h.tidH, h.tidL, h.extendedAddress,
   h.addressHH, h.addressH, h.addressL, h.addressLL, h.datalenH, h.datalenM, h.datalenL, h.headerCrc]

/-- The first fifteen bytes, what a transmission takes from the stored header (spec/47_dma_agent.md rule R334). -/
def Header.sentBytes (h : Header) : List Byte := h.bytes.take 15

/-- The header's transaction id (spec/10_state.md rule R52). -/
def Header.tid (h : Header) : Nat := be16 h.tidH h.tidL

/-- The header a send programs (spec/41_send.md rule R195). `destKey` and `headerCrc` keep their value
(rule R196). -/
def Header.program (h : Header) (dest src ins : Byte) (tid : Half) (ext : Byte) (addr datalen : Word) : Header where
  destAddress := dest
  protocol := protocolId
  instruction := ins
  destKey := h.destKey
  sourceAddress := src
  tidH := byteOf 1 tid
  tidL := byteOf 0 tid
  extendedAddress := ext
  addressHH := byteOf 3 addr
  addressH := byteOf 2 addr
  addressL := byteOf 1 addr
  addressLL := byteOf 0 addr
  datalenH := byteOf 2 datalen
  datalenM := byteOf 1 datalen
  datalenL := byteOf 0 datalen
  headerCrc := h.headerCrc

/-- `tid(c)` of a context (rule R52) -/
def Ctx.tid (k : Ctx) : Nat := k.hdr.tid

/-- `instr(c)` of a context (rule R52) -/
def Ctx.instr (k : Ctx) : Byte := k.hdr.instruction

/-! ## Operands of a command -/

/-- Effective instruction: operand OR capability mask (spec/41_send.md rule R182). -/
def effectiveInstruction (instruction mask : Byte) : Byte := instruction ||| mask

/-- `ext = ARG_MISC[7:0]` (spec/30_encoding.md rule R102) -/
def Args.ext (a : Args) : Byte := byteOf 0 a.misc
/-- `mask = ARG_MISC[15:8]` -/
def Args.mask (a : Args) : Byte := byteOf 1 a.misc
/-- `dest = ARG_MISC[23:16]` -/
def Args.dest (a : Args) : Byte := byteOf 2 a.misc
/-- `src = ARG_MISC[31:24]` -/
def Args.src (a : Args) : Byte := byteOf 3 a.misc

/-- The null pointer is `ARG_PTR = 0` (spec/46_facade.md rule R311). -/
def isNull (ptr : Word) : Bool := ptr == 0

/-- The port number the 8-bit register `PORT` holds, signed (spec/10_state.md rule R23). -/
def Regs.portNumber (r : Regs) : Int := r.port.toInt

/-- A port number as the 8-bit register stores it. -/
def portByte (port : Int) : Byte := BitVec.ofInt 8 port

/-- -1: no port (rule R23). -/
def noPort : Byte := 0xFF

/-- `HPTR` of a cookie: handle plus 1 (spec/10_state.md rule R35). -/
def headerPointer (c : Nat) : Word := BitVec.ofNat 32 (c + 1)

/-! ## Codes and events as words -/

/-- The value of a result code (spec/60_exceptions.md rules R351, R352). -/
def Code.toHalf : Code → Half
  | .ok => 0x0000
  | .commandNoChannel => 0x0101
  | .commandNoDescriptorsAvailable => 0x0102
  | .commandBufferFull => 0x0103
  | .commandChannelDeactivated => 0x0104
  | .commandPortOutOfRange => 0x0105
  | .commandPortInUse => 0x0106
  | .noHwCrc => 0x0107
  | .replyNoReply => 0x0108
  | .replyNotSent => 0x0109
  | .replyNotYetSent => 0x010A
  | .replyMissmatch => 0x010B
  | .replyTimeout => 0x010C
  | .linkDown => 0x010D
  | .commandNullpointer => 0x010E
  | .illegalCommand => 0x010F
  | .noFreeCookie => 0x0110
  | .spw k => 0x0120 + BitVec.ofNat 16 k.val
  | .rmapStd s => 0x0200 ||| s.setWidth 16

/-- `RMAP_STD(6)`, "too much data" (spec/30_encoding.md rule R122) -/
def Code.tooMuchData : Code := .rmapStd 6

/-- Status byte to result code (spec/42_reply.md rule R223). -/
def Code.ofStatus (status : Byte) : Code := if status = 0 then .ok else .rmapStd status

/-- The event's `id` (spec/60_exceptions.md rule R362). -/
def EventKind.id : EventKind → Byte
  | .linkDown => 1
  | .spwCredit => 2
  | .spwEscape => 3
  | .spwDisconnect => 4
  | .spwParity => 5
  | .spwWriteSync => 6
  | .spwInvalidAddress => 7
  | .spwEarlyEop => 8
  | .dmaError => 9
  | .missedReplies => 10
  | .rxFailure f => BitVec.ofNat 8 (10 + f.bit)
  | .portSwitch => 22
  | .noRxDescriptors => 23
  | .txLinkError => 24

/-- The word `EVENT_POP` returns for an event: the parameter modulo `2^24`, then the id (rule R361). -/
def Event.toWord (e : Event) : Word := BitVec.ofInt 24 e.param ++ e.kind.id

end Sys2Proof.Machine
end

