-- ==== Sys2Proof/Machine/Ops.lean ====
section
/-! DEFINITION. The named operations over the state that the commands and the DMA steps share: reading and
writing rings, tables and contexts, drawing inputs, emitting events, ending a command. What other machines call
taking an exception is here ending a command with a result code (`State.raise`); there is no return from it
(spec/60_exceptions.md rules R350, R366). -/

namespace Sys2Proof.Machine

open Sys2Proof

/-! ## Structured spaces (spec/00_scope.md rule R12) -/

/-- `TX[t]` -/
def State.txAt (s : State) (t : Nat) : TxDesc := s.tx.getD t TxDesc.zero
/-- `RX[i]` -/
def State.rxAt (s : State) (i : Nat) : RxDesc := s.rx.getD i RxDesc.zero
/-- `FT[i]` -/
def State.ftAt (s : State) (i : Nat) : Half := s.ft.getD i 0
/-- `CTX[c]` -/
def State.ctxAt (s : State) (c : Nat) : Ctx := s.ctx.getD c Ctx.zero

/-- `TX[t] <- d` -/
def State.setTx (s : State) (t : Nat) (d : TxDesc) : State := { s with tx := s.tx.set t d }
/-- `RX[i] <- d` -/
def State.setRx (s : State) (i : Nat) (d : RxDesc) : State := { s with rx := s.rx.set i d }
/-- `FT[i] <- f` -/
def State.setFt (s : State) (i : Nat) (f : Half) : State := { s with ft := s.ft.set i f }
/-- `CTX[c] <- k` -/
def State.setCtx (s : State) (c : Nat) (k : Ctx) : State := { s with ctx := s.ctx.set c k }
/-- `PORTREG[p] <- r` -/
def State.setPortReg (s : State) (p : Nat) (r : PortHw) : State := { s with portReg := s.portReg.set p r }

/-- Replaces the controller registers. -/
def State.setRegs (s : State) (r : Regs) : State := { s with regs := r }
/-- Replaces the operand registers. -/
def State.setArgs (s : State) (a : Args) : State := { s with args := a }
/-- Replaces the arena's bytes. -/
def State.setArena (s : State) (m : Mem) : State := { s with arena := m }
/-- Replaces the environment. -/
def State.setEnv (s : State) (e : Env) : State := { s with env := e }
/-- Replaces the sequencer's state. -/
def State.setSeq (s : State) (q : Sequencer) : State := { s with seq := q }
/-- `REPLY_PTR` and `REPLY_LEN` (spec/10_state.md rule R31) -/
def State.setReply (s : State) (ptr len : Word) : State :=
  { s with res := { s.res with replyPtr := ptr, replyLen := len } }
/-- `RET_VAL` (rule R31) -/
def State.setRetVal (s : State) (v : Word) : State := { s with res := { s.res with retVal := v } }

/-! ## Ports and cookies -/

/-- A port is bound: `x[PORT] != -1` (spec/10_state.md rule R23). -/
def State.bound (s : State) : Bool := s.regs.port != noPort

/-- The one cookie test: `c < N_COOKIES and CTX[c].VALID = 1` (spec/60_exceptions.md rule R356). -/
def State.cookieValid (s : State) (c : Nat) : Bool := decide (c < s.cfg.nCookies) && (s.ctxAt c).valid

/-! ## Events (spec/60_exceptions.md rule R360) -/

/-- Appends a sequence of events. -/
def State.emitAll (s : State) (es : List Event) : State := { s with events := s.events ++ es }

/-- `emit EV(p)` -/
def State.emit (s : State) (k : EventKind) (p : Int) : State := s.emitAll [⟨k, p⟩]

/-! ## Ending a command (spec/60_exceptions.md rule R350) -/

/-- `x[RESULT] <- CODE`: the command ends, nothing else changes. -/
def State.raise (s : State) (code : Code) : State := { s with res := { s.res with result := code.toHalf } }

/-- A command ends with what its body returned. -/
def complete (r : State × Code) : Host.Outcome State Fault Refusal := .next (r.1.raise r.2)

/-! ## Inputs: each read is a draw (spec/10_state.md rules R40 to R42) -/

/-- One free value has been drawn. -/
def Env.countFree (e : Env) : Env := { e with freeCount := e.freeCount + 1 }

/-- A read of `LINKSTATE`: the value the environment has scripted, else a free value. -/
def State.drawLink (s : State) : BitVec 3 × State :=
  match s.env.linkDraws with
  | v :: rest => (v, s.setEnv { s.env with linkDraws := rest })
  | [] => (Config.freeLinkState s.env.freeCount, s.setEnv s.env.countFree)

/-- A read of `STATUS`: the value the environment has scripted, else a free value. -/
def State.drawStatus (s : State) : Word × State :=
  match s.env.statusDraws with
  | v :: rest => (v, s.setEnv { s.env with statusDraws := rest })
  | [] => (Config.freeStatus s.env.freeCount, s.setEnv s.env.countFree)

/-- A read of `TIMER`: the last value read plus an advance, scripted or free, so it never decreases and never
wraps (rule R42). -/
def State.drawTimer (s : State) : Nat × State :=
  match s.env.timerDraws with
  | d :: rest => (s.env.timer + d, s.setEnv { s.env with timerDraws := rest, timer := s.env.timer + d })
  | [] =>
    let now := s.env.timer + Config.freeTimerAdvance s.env.freeCount
    (now, s.setEnv { s.env.countFree with timer := now })

/-! ## Memory accesses -/

/-- `SYNC` (spec/20_memory.md rule R82): in the model of rule R81 the identity (rule R83). -/
def State.sync (s : State) : State := s

/-- `pkt(i)`: the received packet of a slot as stored (rule R77). -/
def State.pkt (s : State) (i : Nat) : List Byte := s.arena.readBytes (s.rxAt i).ptr.toNat (s.rxAt i).len.toNat

/-- `MemRead(HOSTMEM, a, n)`; the bytes past `2^32 - 1` are free values (rule R79). `j` counts the bytes read. -/
def State.hostBytes (s : State) (a j : Nat) : Nat → List Byte
  | 0 => []
  | n + 1 =>
    (if a < 2 ^ 32 then s.hostMem.read a else Config.freeHostByte s.env.freeCount j)
      :: State.hostBytes s (a + 1) (j + 1) n

/-! ## Pointers that name something -/

/-- Every pointer and index a descriptor or a context holds names something the machine has: header pointers a
context, and not null in an enabled descriptor (spec/47_dma_agent.md rule R334), packet windows the arena
(spec/10_state.md rule R57 (c)), remembered slots the rings (spec/42_reply.md rule R216). -/
def State.pointersInRange (s : State) : Bool :=
  (s.tx.all fun d => decide (d.hptr.toNat ≤ s.cfg.nCookies) && (!d.en || decide (1 ≤ d.hptr.toNat))) &&
  (s.rx.all fun d => decide (d.ptr.toNat + d.len.toNat ≤ s.cfg.arenaSize)) &&
  (s.ctx.all fun k => decide (k.txdesc < s.cfg.maxTx) && decide (k.rxdescIndex < s.cfg.maxRx))

/-- What a command, a poll or a DMA step that follows such pointers does first: in a state that holds a pointer
to nothing, it faults. spec/20_memory.md rule R79 says such an access cannot arise (log 15). -/
def guardPointers (s : State) (k : Host.Outcome State Fault Refusal) : Host.Outcome State Fault Refusal :=
  if s.pointersInRange then k else .fault .addressOutOfRange

end Sys2Proof.Machine
end

