-- ==== Sys2Proof/Machine/Validator.lean ====
section
/-! DEFINITION. The CRC-8 validator and the failure classifier (spec/43_validator.md). -/

namespace Sys2Proof.Machine

open Sys2Proof

/-! ## crc8 (rules R260 to R262) -/

/-- One bit of the default checksum: shift right, the reflected polynomial where a 1 fell out. -/
def crc8Bit (c : Byte) : Byte := if c.getLsbD 0 then (c >>> 1) ^^^ 0xE0 else c >>> 1

/-- `n` bits of the default checksum. -/
def crc8Bits : Nat → Byte → Byte
  | 0, c => c
  | n + 1, c => crc8Bits n (crc8Bit c)

/-- One byte of the default checksum. -/
def crc8Step (c b : Byte) : Byte := crc8Bits 8 (c ^^^ b)

/-- The default checksum (rule R262). PRESUMED (log 3): the spec marks it as general knowledge. -/
def crc8Standard (m : List Byte) : Byte := m.foldl crc8Step 0

/-- The byte-wise CRC of a table, from the register value 0 and with no final inversion. -/
def crc8Table (entries : List Byte) (m : List Byte) : Byte :=
  m.foldl (fun c b => entries.getD (c ^^^ b).toNat 0) 0

/-- The function an admissible checksum is. -/
def checksumFunction : Checksum → List Byte → Byte
  | .rmap => crc8Standard
  | .function crc _ => crc

/-- The checksum a state names for `step` (log 3), a value of the parameter `crc8` of spec/00_scope.md rule R7
(rule R260). -/
def crc8 (cfg : Build) : List Byte → Byte :=
  match cfg.crc with
  | .standard => crc8Standard
  | .table entries => crc8Table entries
  | .platform id => checksumFunction (Config.platformCrc8 id)

/-! ## Length class (rule R245) -/

/-- The length class of a received packet. -/
inductive LengthClass where
  | writeReply
  | readReply
  | bad
  deriving DecidableEq, Repr

/-- Rule R245: exactly 8, at least 13, or bad. -/
def lengthClass (n : Nat) : LengthClass :=
  if n = wrReplyLen then .writeReply else if rdReplyMinLen ≤ n then .readReply else .bad

/-! ## checkCrc (rules R257 to R259) -/

/-- `check_crc` with the checksum `crc`: both checks of a read reply are made from the initial CRC state
(rule R259). -/
def checkCrc (crc : List Byte → Byte) (p : List Byte) : LengthClass → Bool
  | .writeReply => crc (p.take wrReplyLen) == 0
  | .readReply => crc (p.take rdReplyHdrLen) == 0 && crc p == 0
  | .bad => true

/-! ## checkRmapHeader (rules R249 to R255) -/

/-- Byte `k` of a packet. -/
def pktByte (p : List Byte) (k : Nat) : Byte := p.getD k 0

/-- Status 2, "unused packet type/command" (spec/30_encoding.md rule R122) -/
def statusUnusedType : Byte := 2

/-- `check_rmap_header`: all six checks, none stops the others (rule R249). -/
def checkRmapHeader (src dest : Byte) (p : List Byte) (n : Nat) (cls : LengthClass) : Half :=
  let badType := pktByte p 2 &&& typeBits != 0
  let saysUnused := pktByte p 3 == statusUnusedType
  Failure.destAddr.maskIf (pktByte p 0 != src) |||
  Failure.protocol.maskIf (pktByte p 1 != protocolId) |||
  Failure.instr.maskIf (badType && saysUnused) |||
  Failure.instrType.maskIf (badType && !saysUnused) |||
  Failure.wrongReply.maskIf (isWrite (pktByte p 2) != (cls == .writeReply)) |||
  Failure.srcAddr.maskIf (pktByte p 4 != dest) |||
  Failure.lenMismatch.maskIf
    (cls == .readReply && be24 (pktByte p 8) (pktByte p 9) (pktByte p 10) + rdReplyMinLen != n)

/-! ## classify (rules R240 to R247, R256) -/

/-- The failure-table entry of a ready slot with descriptor `d` and packet `p`. `crc` is the parameter `crc8`, as in
every operation that takes it. -/
def verdict (crc : List Byte → Byte) (s : State) (d : RxDesc) (p : List Byte) : Half :=
  let flags := classifiedBit ||| Failure.eep.maskIf d.eep ||| Failure.trunc.maskIf d.trunc
  let n := d.len.toNat
  match lengthClass n with
  | .bad => flags ||| Failure.len.mask
  | cls =>
    flags ||| Failure.crc.maskIf (!checkCrc crc p cls) |||
      checkRmapHeader s.regs.srcAddr s.regs.destAddr p n cls

/-- `classify(i)`: once only (rule R241), ready slots only (rule R242), the entry written whole (rule R256). -/
def classify (crc : List Byte → Byte) (i : Nat) (s : State) : State :=
  if entryClassified (s.ftAt i) then s
  else if (s.rxAt i).ready then s.setFt i (verdict crc s (s.rxAt i) (s.pkt i))
  else s

end Sys2Proof.Machine
end

