-- ==== Sys2Proof/Machine/Reply.lean ====
section
/-! DEFINITION. GET_REPLY: check_tx_desc and find_reply (spec/42_reply.md). -/

namespace Sys2Proof.Machine

open Sys2Proof

/-- The context a TX descriptor's header pointer names: handle plus 1 (spec/10_state.md rule R35). -/
def State.headerCtx (s : State) (hptr : Word) : Ctx := s.ctxAt (hptr.toNat - 1)

/-- The remembered TX slot still belongs to the cookie's transaction: it has been set, it has not been cleared by
RESET, and its header carries the cookie's transaction id (rules R212, R213, R225, R226). -/
def txSlotIsOurs (c : Nat) (s : State) : Bool :=
  let k := s.ctxAt c
  let d := s.txAt k.txdesc
  k.txdValid && d.hptr != 0 && (s.headerCtx d.hptr).tid == k.tid

/-- `check_tx_desc` (rule R212): `none` is PASS. -/
def checkTxDesc (c : Nat) (s : State) : State × Option Code :=
  let t := (s.ctxAt c).txdesc
  if !txSlotIsOurs c s then (s, none)
  else if (s.txAt t).en then (s, some .replyNotYetSent)
  else if (s.txAt t).le then (s.emit .txLinkError t, some .replyNotSent)
  else (s, none)

/-- `matches(i, c)` (rule R218) -/
def slotMatches (i c : Nat) (s : State) : Bool :=
  entryValidated (s.ftAt i) &&
  be16 (pktByte (s.pkt i) 5) (pktByte (s.pkt i) 6) == (s.ctxAt c).tid &&
  pktByte (s.pkt i) 2 &&& low6 == (s.ctxAt c).instr &&& low6

/-- The downward part of the scan: slots `n - 1` to 0 (rule R216). -/
def scanDown (crc : List Byte → Byte) (c : Nat) : Nat → State → State × Option Nat
  | 0, s => (s, none)
  | n + 1, s =>
    let s1 := classify crc n s
    if slotMatches n c s1 then (s1, some n) else scanDown crc c n s1

/-- The upward part of the scan: `n` slots from `i` on (rule R216). -/
def scanUp (crc : List Byte → Byte) (c : Nat) (i : Nat) : Nat → State → State × Option Nat
  | 0, s => (s, none)
  | n + 1, s =>
    let s1 := classify crc i s
    if slotMatches i c s1 then (s1, some i) else scanUp crc c (i + 1) n s1

/-- `find_reply` (rule R216): outward from the remembered slot, first down, then up; `none` is NOT_FOUND. -/
def findReply (crc : List Byte → Byte) (c : Nat) (s : State) : State × Option Nat :=
  let start := (s.ctxAt c).rxdescIndex
  match scanDown crc c (start + 1) s with
  | (s1, some i) => (s1, some i)
  | (s1, none) => scanUp crc c (start + 1) (s.cfg.maxRx - (start + 1)) s1

/-- The payload of a matched read reply; a write reply delivers none (rule R222). -/
def deliver (i : Nat) (s : State) : State :=
  if rdReplyMinLen ≤ (s.rxAt i).len.toNat then
    s.setReply ((s.rxAt i).ptr + BitVec.ofNat 32 rdReplyHdrLen) ((s.rxAt i).len - BitVec.ofNat 32 rdReplyMinLen)
  else s

/-- `get_reply_body` (rule R210) -/
def getReplyBody (crc : List Byte → Byte) (c : Nat) (s : State) : State × Code :=
  if !s.cookieValid c then (s, .commandNoChannel)
  else
    match checkTxDesc c s.sync with
    | (s1, some code) => (s1, code)
    | (s1, none) =>
      match findReply crc c s1 with
      | (s2, none) => (s2, .replyNoReply)
      | (s2, some i) => (deliver i s2, Code.ofStatus (pktByte (s2.pkt i) 3))

/-- `get_reply_body` as a command: no pointer is followed for a handle that names no open cookie (rule R211). -/
def getReply (crc : List Byte → Byte) (c : Nat) (s : State) : Host.Outcome State Fault Refusal :=
  if !s.cookieValid c then complete (s, .commandNoChannel) else guardPointers s (complete (getReplyBody crc c s))

/-- GET_REPLY (rule R210) -/
def execGetReply (c : Nat) (s : State) : Host.Outcome State Fault Refusal := getReply (crc8 s.cfg) c s

end Sys2Proof.Machine
end

