-- ==== Sys2Proof/Machine/Send.lean ====
section
/-! DEFINITION. SEND_COMMAND: the ring state machine and the reply-arena arbiter (spec/41_send.md). -/

namespace Sys2Proof.Machine

open Sys2Proof

/-- The length is refused (rule R184): a write wider than 24 bits; a read whose reply would exceed
`MAX_PACKET_LEN`, the sum taken exactly. -/
def lengthRefused (cfg : Build) (write : Bool) (datalen : Word) : Bool :=
  if write then decide (2 ^ 24 ≤ datalen.toNat)
  else decide (cfg.maxPacketLen < datalen.toNat + 1 + rdReplyHdrLen)

/-- Less than the headroom is free in the arena (rule R185). -/
def arenaFull (s : State) : Bool := decide (s.cfg.arenaSize - s.regs.arenaPtr < s.cfg.arenaHeadroom)

/-- The TX slot a send would use: the ring wraps only when its capacity is exactly 64 (rule R188). -/
def txSlot (s : State) : Option Nat :=
  if s.regs.txIndex < s.cfg.maxTx then some s.regs.txIndex
  else if s.cfg.maxTx = txWrapSize then some 0
  else none

/-- The size of the reply slot (rule R192). -/
def slotSize (write : Bool) (datalen : Word) : Nat :=
  if write then wrReplyLen else rdReplyHdrLen + datalen.toNat + 1

/-- The cookie after a send: header (rule R195) and remembered slots (rule R198). -/
def Ctx.afterSend (k : Ctx) (s : State) (ins : Byte) (datalen : Word) (t : Nat) : Ctx :=
  { k with
    hdr := k.hdr.program s.regs.destAddr s.regs.srcAddr ins s.regs.tidNext k.ext k.addr datalen
    txdValid := true
    txdesc := t
    rxdescIndex := s.regs.rxIndex }

/-- The TX descriptor a send programs (rule R197). -/
def programmedTx (c : Nat) (write : Bool) (ptr datalen : Word) : TxDesc :=
  if write then { ctrl := txCtrlWrite, hptr := headerPointer c, len := datalen, dptr := ptr }
  else { ctrl := txCtrlRead, hptr := headerPointer c, len := 0, dptr := 0 }

/-- The RX descriptor a send reserves (rule R194). -/
def reservedRx (arenaPtr size : Nat) : RxDesc :=
  { ctrl := rxCtrlReserved, ptr := BitVec.ofNat 32 arenaPtr, len := BitVec.ofNat 32 size }

/-- The registers after a send (rule R199). -/
def Regs.afterSend (r : Regs) (t size : Nat) : Regs :=
  { r with txIndex := t + 1, rxIndex := r.rxIndex + 1, arenaPtr := r.arenaPtr + size, tidNext := r.tidNext + 1 }

/-- The commit of a send in TX slot `t` (rules R190 to R199). The signal to the port hardware is no state of the
model (spec/20_memory.md rule R88). -/
def commitSend (c : Nat) (ins : Byte) (ptr datalen : Word) (t : Nat) (s : State) : State :=
  (((s.setCtx c ((s.ctxAt c).afterSend s ins datalen t)).setRx s.regs.rxIndex
    (reservedRx s.regs.arenaPtr (slotSize (isWrite ins) datalen))).setTx t
    (programmedTx c (isWrite ins) ptr datalen)).setRegs
    (s.regs.afterSend t (slotSize (isWrite ins) datalen))

/-- `send_body` (rule R180): the checks in the order of the source, none of which writes anything but the event
of rule R186 (rule R187). -/
def sendBody (c : Nat) (instruction : Byte) (ptr datalen : Word) (s : State) : State × Code :=
  if !s.cookieValid c then (s, .commandNoChannel)
  else
    let ins := effectiveInstruction instruction (s.ctxAt c).mask
    if !s.bound then (s, .commandChannelDeactivated)
    else if lengthRefused s.cfg (isWrite ins) datalen then (s, .tooMuchData)
    else if arenaFull s then (s, .commandBufferFull)
    else if s.cfg.maxRx ≤ s.sync.regs.rxIndex then
      (s.emit .noRxDescriptors s.regs.rxIndex, .commandNoDescriptorsAvailable)
    else
      match txSlot s with
      | none => (s, .commandNoDescriptorsAvailable)
      | some t =>
        if (s.txAt t).en then (s, .commandNoDescriptorsAvailable)
        else (commitSend c ins ptr datalen t s, .ok)

/-- SEND_COMMAND (rule R180) -/
def execSendCommand (c : Nat) (instruction : Byte) (s : State) : Host.Outcome State Fault Refusal :=
  complete (sendBody c instruction s.args.ptr s.args.len s)

end Sys2Proof.Machine
end

