-- ==== Sys2Proof/Machine/Blocking.lean ====
section
/-! DEFINITION. SEND_COMMAND_BLOCKING and the polls of a blocking command (spec/44_blocking.md). -/

namespace Sys2Proof.Machine

open Sys2Proof

/-- The instruction constant of a direction (rule R284, spec/46_facade.md rule R310). -/
def directionInstr (write : Bool) : Byte := if write then instrWrite else instrRead

/-- Step S of `blocking_body` (rule R280): the send; where it succeeds the timer is read and the sequencer holds
`(c, start, timeout)` (rule R281), and `RESULT` waits for the end of the command (log 20). -/
def blockingSend (c : Nat) (write : Bool) (ptr datalen timeout : Word) (s : State) :
    Host.Outcome State Fault Refusal :=
  let r := sendBody c (directionInstr write) ptr datalen s
  if r.2 = .ok then
    let (start, s1) := r.1.drawTimer
    .next (s1.setSeq (.blocking c start timeout.toNat))
  else complete r

/-- The two codes that do not end the wait (rule R285). -/
def Code.keepsWaiting (code : Code) : Bool := code == .replyNotYetSent || code == .replyNoReply

/-- A blocking command ends: the sequencer is idle again (rule R281) and `RESULT` holds the code. -/
def endBlocking (r : State × Code) : Host.Outcome State Fault Refusal := complete (r.1.setSeq .idle, r.2)

/-- One poll, one atomic step (rules R280, R282, R283): the deadline `start + timeout` is tested
after the poll. -/
def pollBody (crc : List Byte → Byte) (c start timeout : Nat) (s : State) :
    Host.Outcome State Fault Refusal :=
  let r := getReplyBody crc c s
  if r.2.keepsWaiting then
    let (now, s1) := r.1.drawTimer
    if start + timeout ≤ now then endBlocking (s1, .replyTimeout) else .next s1
  else endBlocking r

/-- A poll of the running blocking command. -/
def poll (crc : List Byte → Byte) (c start timeout : Nat) (s : State) :
    Host.Outcome State Fault Refusal :=
  guardPointers s (pollBody crc c start timeout s)

/-- SEND_COMMAND_BLOCKING: a write when `ARG_PTR` is not null, else a read (rule R284). -/
def execSendCommandBlocking (c : Nat) (s : State) : Host.Outcome State Fault Refusal :=
  blockingSend c (!isNull s.args.ptr) s.args.ptr s.args.len s.args.timeout s

end Sys2Proof.Machine
end

