-- ==== Sys2Proof/Machine/Channel.lean ====
section
/-! DEFINITION. Channel control: RESET, IS_ACTIVE, SET_PORT, SET_PORT_ADDR (spec/40_channel_control.md). -/

namespace Sys2Proof.Machine

open Sys2Proof

/-! ## RESET (rules R150 to R157) -/

/-- Step 1: the link-state check, one draw of `LINKSTATE` (rule R151). -/
def linkCheck (s : State) : State :=
  let (link, s1) := s.drawLink
  s1.emitAll (if linkRun link then [] else [⟨.linkDown, s.regs.portNumber⟩])

/-- The events of a status word: bits 0 to 6 ascending, then the DMA-error bits (rule R152). -/
def statusEvents (port : Int) (v : Word) : List Event :=
  (statusBits.filter fun b => v.getLsbD b.1).map (fun b => ⟨b.2, port⟩) ++
  if dmaErrorBits v = 0 then [] else [⟨.dmaError, ((dmaErrorBits v).toNat : Int)⟩]

/-- Step 2: the status decode, one draw of `STATUS` (rule R152). -/
def statusDecode (s : State) : State :=
  let (status, s1) := s.drawStatus
  s1.emitAll (statusEvents s.regs.portNumber status)

/-- Step 3: hardware reset and descriptor-table reset. No state of the model (rule R153). -/
def hardwareReset (s : State) : State := s

/-- Step 4: how many of the slots below `n` are still enabled, from the last one down to the first that is not
(rule R154). -/
def trailingEnabled (s : State) : Nat → Nat
  | 0 => 0
  | n + 1 => if (s.rxAt n).en then trailingEnabled s n + 1 else 0

/-- `missed` (rule R154) -/
def missedReplies (s : State) : Nat := trailingEnabled s s.regs.rxIndex

/-- Step 4: the count is reported when it is not 0 (rule R154). -/
def reportMissed (s : State) : State :=
  if missedReplies s = 0 then s else s.emit .missedReplies (missedReplies s)

/-- Step 5 (rule R155) -/
def linkDeclaredDown (s : State) : Bool := missedReplies s == s.regs.rxIndex && decide (1 < missedReplies s)

/-- Step 6: classifies the unclassified slots below `n` in ascending order and gathers their failure bits
(rule R156). -/
def sweep (crc : List Byte → Byte) : Nat → State → State × Half
  | 0, s => (s, 0)
  | n + 1, s =>
    let r := sweep crc n s
    if entryClassified (r.1.ftAt n) then r
    else
      let s1 := classify crc n r.1
      (s1, r.2 ||| (s1.ftAt n &&& failureBits))

/-- One event per failure bit, ascending (rule R156). -/
def failureEvents (acc : Half) : List Event :=
  (Failure.all.filter fun f => acc.getLsbD f.bit).map fun f => ⟨.rxFailure f, 0⟩

/-- Step 6: the classification sweep (rule R156). -/
def classificationSweep (crc : List Byte → Byte) (s : State) : State :=
  let r := sweep crc s.regs.rxIndex s
  r.1.emitAll (failureEvents r.2)

/-- Step 7: both rings, the failure table, the indices and the arena pointer cleared (rule R157). -/
def clearRings (s : State) : State :=
  { s with
    tx := List.replicate s.cfg.maxTx TxDesc.zero
    rx := List.replicate s.cfg.maxRx RxDesc.zero
    ft := List.replicate s.cfg.maxRx 0
    regs := { s.regs with txIndex := 0, rxIndex := 0, arenaPtr := 0 } }

/-- Steps 1 to 3, skipped when no port is bound (rule R153). -/
def portSteps (s : State) : State := if s.bound then hardwareReset (statusDecode (linkCheck s)) else s

/-- `reset_body` (rule R150). The restart of the link is no state of the model (rule R157). -/
def resetBody (crc : List Byte → Byte) (s : State) : State × Code :=
  let s1 := (portSteps s).sync
  let code := if linkDeclaredDown s1 then Code.linkDown else Code.ok
  (clearRings (classificationSweep crc (reportMissed s1)), code)

/-- RESET with the checksum `crc` (rule R150). -/
def channelReset (crc : List Byte → Byte) (s : State) : Host.Outcome State Fault Refusal :=
  guardPointers s (complete (resetBody crc s))

/-- RESET (rule R150) -/
def execReset (s : State) : Host.Outcome State Fault Refusal := channelReset (crc8 s.cfg) s

/-! ## IS_ACTIVE (rule R158) -/

/-- The test of IS_ACTIVE: at most one draw of `LINKSTATE`. -/
def activeBody (s : State) : State × Code :=
  if s.bound then
    let (link, s1) := s.drawLink
    (s1, if linkRun link then .ok else .linkDown)
  else (s, .commandChannelDeactivated)

/-- IS_ACTIVE (rule R158) -/
def execIsActive (s : State) : Host.Outcome State Fault Refusal := complete (activeBody s)

/-! ## SET_PORT, SET_PORT_ADDR (rules R160 to R168) -/

/-- The housekeeping mirror (rule R166). -/
def mirrorPort (port : Int) (s : State) : State :=
  if s.cfg.hasHkMirror then s.setRegs { s.regs with hkPort := portByte port } else s

/-- What every accepted request begins with: the event (rule R165), the mirror (rule R166), the reset of the old
binding (rule R167). -/
def leavePort (crc : List Byte → Byte) (port : Int) (s : State) : State :=
  (resetBody crc (mirrorPort port (s.emit .portSwitch port))).1

/-- Rebinding: the port, the addresses and the new port's registers (rule R167). The start of the link and the
settle delay are no state of the model. -/
def bindPort (port : Int) (dest src : Byte) (s : State) : State :=
  (s.setRegs { s.regs with port := portByte port, destAddr := dest, srcAddr := src }).setPortReg port.toNat
    { maxPktLen := s.cfg.maxPacketLen, srcAddr := src }

/-- `HW_CRC[port]` (rule R162) -/
def hwCrcAt (cfg : Build) (port : Int) : Bool := cfg.hwCrc.getD port.toNat false

/-- Why a request is refused: the range of ports (rule R161), then the CRC capability (rule R162); -1 asks for
deactivation, to which neither applies (rule R163). -/
def portRefusal (cfg : Build) (port : Int) : Option Code :=
  if port = -1 then none
  else if port < 0 ∨ (cfg.nPorts : Int) ≤ port then some .commandPortOutOfRange
  else if hwCrcAt cfg port then none
  else some .noHwCrc

/-- Deactivation (rule R163): the result of the reset is ignored, no `PORTREG` and no address is written. -/
def deactivate (crc : List Byte → Byte) (s : State) : State × Code :=
  let s1 := leavePort crc (-1) s
  (s1.setRegs { s1.regs with port := noPort }, .ok)

/-- An accepted port: the old binding is left, the new one made, and the second reset gives the result
(rule R167). -/
def rebind (crc : List Byte → Byte) (port : Int) (dest src : Byte) (s : State) : State × Code :=
  resetBody crc (bindPort port dest src (leavePort crc port s))

/-- `set_port_body` (rules R163, R167). -/
def setPortBody (crc : List Byte → Byte) (port : Int) (dest src : Byte) (s : State) :
    Host.Outcome State Fault Refusal :=
  match portRefusal s.cfg port with
  | some code => complete (s, code)
  | none => guardPointers s (complete (if port = -1 then deactivate crc s else rebind crc port dest src s))

/-- SET_PORT with the checksum `crc`: the channel keeps its addresses (rule R160). -/
def setPortCommand (crc : List Byte → Byte) (port : Int) (s : State) : Host.Outcome State Fault Refusal :=
  setPortBody crc port s.regs.destAddr s.regs.srcAddr s

/-- SET_PORT (rule R160) -/
def execSetPort (port : Int) (s : State) : Host.Outcome State Fault Refusal := setPortCommand (crc8 s.cfg) port s

/-- SET_PORT_ADDR with the checksum `crc`: the addresses of `ARG_MISC[31:16]` (rule R168). -/
def setPortAddrCommand (crc : List Byte → Byte) (port : Int) (s : State) : Host.Outcome State Fault Refusal :=
  setPortBody crc port s.args.dest s.args.src s

/-- SET_PORT_ADDR (rule R168) -/
def execSetPortAddr (port : Int) (s : State) : Host.Outcome State Fault Refusal :=
  setPortAddrCommand (crc8 s.cfg) port s

end Sys2Proof.Machine
end

