-- ==== Sys2Proof/Machine/Context.lean ====
section
/-! DEFINITION. The cookie context commands OPEN, REOPEN, CLOSE, SET_ADDRESS, GET_ADDRESS
(spec/45_context.md). -/

namespace Sys2Proof.Machine

open Sys2Proof

/-- The free context with the lowest index (rule R291). -/
def freeHandle (s : State) : Option Nat := (s.ctx.take s.cfg.nCookies).findIdx? fun k => !k.valid

/-- A newly opened context: nothing of an earlier cookie is left in it (rules R290, R292). -/
def openedCtx (a : Args) : Ctx :=
  { Ctx.zero with valid := true, addr := a.addr, ext := a.ext, mask := a.mask, maxlen := a.maxlen }

/-- The body of OPEN (rule R290). -/
def openBody (s : State) : State × Code :=
  match freeHandle s with
  | none => (s, .noFreeCookie)
  | some c => ((s.setCtx c (openedCtx s.args)).setRetVal (BitVec.ofNat 32 c), .ok)

/-- OPEN (rule R290) -/
def execOpenCookie (s : State) : Host.Outcome State Fault Refusal := complete (openBody s)

/-- The body of REOPEN (rules R293, R294): the active check is the test of IS_ACTIVE. -/
def reOpenBody (c : Nat) (s : State) : State × Code :=
  if !s.cookieValid c then (s, .commandNoChannel)
  else
    let r := activeBody s
    if r.2 = .ok then
      (r.1.setCtx c { r.1.ctxAt c with addr := s.args.addr, maxlen := s.args.maxlen }, .ok)
    else r

/-- REOPEN (rule R293) -/
def execReOpen (c : Nat) (s : State) : Host.Outcome State Fault Refusal := complete (reOpenBody c s)

/-- The body of CLOSE (rules R295, R296): `VALID` only. -/
def closeBody (c : Nat) (s : State) : State × Code :=
  if !s.cookieValid c then (s, .commandNoChannel)
  else (s.setCtx c { s.ctxAt c with valid := false }, .ok)

/-- CLOSE (rule R295) -/
def execClose (c : Nat) (s : State) : Host.Outcome State Fault Refusal := complete (closeBody c s)

/-- The body of SET_ADDRESS (rule R297). -/
def setAddressBody (c : Nat) (s : State) : State × Code :=
  if !s.cookieValid c then (s, .commandNoChannel)
  else (s.setCtx c { s.ctxAt c with addr := s.args.addr }, .ok)

/-- SET_ADDRESS (rule R297) -/
def execSetAddress (c : Nat) (s : State) : Host.Outcome State Fault Refusal := complete (setAddressBody c s)

/-- The body of GET_ADDRESS (rule R298). -/
def getAddressBody (c : Nat) (s : State) : State × Code :=
  if !s.cookieValid c then (s, .commandNoChannel)
  else (s.setRetVal (s.ctxAt c).addr, .ok)

/-- GET_ADDRESS (rule R298) -/
def execGetAddress (c : Nat) (s : State) : Host.Outcome State Fault Refusal := complete (getAddressBody c s)

end Sys2Proof.Machine
end

