-- ==== Sys2Proof/Machine/Facade.lean ====
section
/-! DEFINITION. The facade commands (spec/46_facade.md): each makes its own checks and runs the body of a channel
command. The facade has no state (rule R320). -/

namespace Sys2Proof.Machine

open Sys2Proof

/-- SEND_WRITE: null pointer, then cookie, then `send_body` (rule R312). -/
def execSendWrite (c : Nat) (s : State) : Host.Outcome State Fault Refusal :=
  if isNull s.args.ptr then complete (s, .commandNullpointer)
  else if !s.cookieValid c then complete (s, .commandNoChannel)
  else complete (sendBody c instrWrite s.args.ptr s.args.len s)

/-- A get command of the facade: cookie, direction, then `get_reply_body` (rules R313, R315). -/
def getDirected (crc : List Byte → Byte) (write : Bool) (c : Nat) (s : State) :
    Host.Outcome State Fault Refusal :=
  if !s.cookieValid c then complete (s, .commandNoChannel)
  else if isWrite (s.ctxAt c).instr != write then complete (s, .replyMissmatch)
  else getReply crc c s

/-- GET_WRITE_REPLY (rule R313) -/
def execGetWriteReply (c : Nat) (s : State) : Host.Outcome State Fault Refusal :=
  getDirected (crc8 s.cfg) true c s

/-- SEND_READ: cookie, then `send_body` with a null pointer (rule R314). -/
def execSendRead (c : Nat) (s : State) : Host.Outcome State Fault Refusal :=
  if !s.cookieValid c then complete (s, .commandNoChannel)
  else complete (sendBody c instrRead 0 s.args.len s)

/-- GET_READ_REPLY (rule R315) -/
def execGetReadReply (c : Nat) (s : State) : Host.Outcome State Fault Refusal :=
  getDirected (crc8 s.cfg) false c s

/-- WRITE_BLOCKING: null pointer, then cookie, then `blocking_body` as a write (rule R316). -/
def execWriteBlocking (c : Nat) (s : State) : Host.Outcome State Fault Refusal :=
  if isNull s.args.ptr then complete (s, .commandNullpointer)
  else if !s.cookieValid c then complete (s, .commandNoChannel)
  else blockingSend c true s.args.ptr s.args.len s.args.timeout s

/-- READ_BLOCKING: cookie, then `blocking_body` as a read (rule R317). -/
def execReadBlocking (c : Nat) (s : State) : Host.Outcome State Fault Refusal :=
  if !s.cookieValid c then complete (s, .commandNoChannel)
  else blockingSend c false 0 s.args.len s.args.timeout s

/-- RESET_VIA_COOKIE with the checksum `crc`: cookie, then `reset_body` (rule R319). -/
def cookieReset (crc : List Byte → Byte) (c : Nat) (s : State) : Host.Outcome State Fault Refusal :=
  if !s.cookieValid c then complete (s, .commandNoChannel)
  else channelReset crc s

/-- RESET_VIA_COOKIE (rule R319) -/
def execResetViaCookie (c : Nat) (s : State) : Host.Outcome State Fault Refusal := cookieReset (crc8 s.cfg) c s

end Sys2Proof.Machine
end

