-- ==== Sys2Proof/Machine/Dispatch.lean ====
section
/-! DEFINITION. exec: one arm per host command (spec/30_encoding.md rule R104). -/

namespace Sys2Proof.Machine

open Sys2Proof

def exec (i : Instr) (s : State) : Host.Outcome State Fault Refusal :=
  match i with
  | .reset => Sys2Proof.Machine.execReset s
  | .isActive => Sys2Proof.Machine.execIsActive s
  | .setPort port => Sys2Proof.Machine.execSetPort port s
  | .sendCommand c instruction => Sys2Proof.Machine.execSendCommand c instruction s
  | .getReply c => Sys2Proof.Machine.execGetReply c s
  | .sendCommandBlocking c => Sys2Proof.Machine.execSendCommandBlocking c s
  | .setPortAddr port => Sys2Proof.Machine.execSetPortAddr port s
  | .openCookie => Sys2Proof.Machine.execOpenCookie s
  | .reOpen c => Sys2Proof.Machine.execReOpen c s
  | .close c => Sys2Proof.Machine.execClose c s
  | .setAddress c => Sys2Proof.Machine.execSetAddress c s
  | .getAddress c => Sys2Proof.Machine.execGetAddress c s
  | .sendWrite c => Sys2Proof.Machine.execSendWrite c s
  | .getWriteReply c => Sys2Proof.Machine.execGetWriteReply c s
  | .sendRead c => Sys2Proof.Machine.execSendRead c s
  | .getReadReply c => Sys2Proof.Machine.execGetReadReply c s
  | .writeBlocking c => Sys2Proof.Machine.execWriteBlocking c s
  | .readBlocking c => Sys2Proof.Machine.execReadBlocking c s
  | .resetViaCookie c => Sys2Proof.Machine.execResetViaCookie c s

end Sys2Proof.Machine
end

