-- ==== Sys2Proof/Machine/Dma.lean ====
section
/-! DEFINITION. The DMA engine as second agent (spec/47_dma_agent.md). Its steps are not commands. A step on a
descriptor that is not enabled does not exist (rule R331) and is refused (log 14). -/

namespace Sys2Proof.Machine

open Sys2Proof

/-- The transmitted packet of a TX slot, header and payload as they are at the step (rule R334). -/
def txPacket (crc : List Byte → Byte) (s : State) (t : Nat) : List Byte :=
  let d := s.txAt t
  let h := (s.ctxAt (d.hptr.toNat - 1)).hdr.sentBytes
  let payload := s.hostBytes d.dptr.toNat 0 d.len.toNat
  h ++ (if d.hc then [crc h] else []) ++ (if d.dc then payload ++ [crc payload] else [])

/-- A DMA step on a TX slot is possible (rule R331). -/
def txEnabled (s : State) (t : Nat) : Bool := s.bound && (s.txAt t).en

/-- A DMA step on an RX slot is possible (rule R331). -/
def rxEnabled (s : State) (i : Nat) : Bool := s.bound && (s.rxAt i).en

/-- The effect of `DMA_TX t` (rule R333). The draw counter moves on, so that the bytes past the end of `HOSTMEM`
are free anew at every transmission (log 11). -/
def transmitted (crc : List Byte → Byte) (t : Nat) (s : State) : State :=
  ({ s with wire := s.wire ++ [txPacket crc s t] }.setTx t (s.txAt t).sent).setEnv s.env.countFree

/-- `DMA_TX t` (rule R333) -/
def dmaTx (crc : List Byte → Byte) (t : Nat) (s : State) : Host.Outcome State Fault Refusal :=
  if txEnabled s t then guardPointers s (.next (transmitted crc t s)) else .refused .dmaNotEnabled

/-- `DMA_TX_ERR t` (rule R335): nothing reaches `WIRE`. -/
def dmaTxErr (t : Nat) (s : State) : Host.Outcome State Fault Refusal :=
  if txEnabled s t then .next (s.setTx t (s.txAt t).failed) else .refused .dmaNotEnabled

/-- The effect of `DMA_RX i pkt eep` (rules R336 to R338): the packet is cut to the slot's capacity. -/
def received (i : Nat) (pkt : List Byte) (eep : Bool) (s : State) : State :=
  let d := s.rxAt i
  let stored := pkt.take d.len.toNat
  (s.setArena (s.arena.writeBytes d.ptr.toNat stored)).setRx i
    (d.received stored.length (decide (d.len.toNat < pkt.length)) eep)

/-- `DMA_RX i pkt eep` (rule R336) -/
def dmaRx (i : Nat) (pkt : List Byte) (eep : Bool) (s : State) : Host.Outcome State Fault Refusal :=
  if rxEnabled s i then guardPointers s (.next (received i pkt eep s)) else .refused .dmaNotEnabled

end Sys2Proof.Machine
end

