-- ==== Sys2Proof/Machine/HostPort.lean ====
section
/-! DEFINITION. The register map of the command port (spec/10_state.md rule R32, spec/20_memory.md rule R76). -/

namespace Sys2Proof.Machine

open Sys2Proof

/-- The registers of rule R32. -/
inductive HostReg where
  | cmd
  | argPtr
  | argLen
  | argTimeout
  | argAddr
  | argMisc
  | argMaxlen
  | result
  | replyPtr
  | replyLen
  | retVal
  | eventPop
  | eventCount
  | port
  | txIndex
  | rxIndex
  | arenaPtr
  | tidNext
  | addrs
  | hkPort
  deriving DecidableEq, Repr

/-- The byte offset of `CMD` (rule R32). -/
def cmdOffset : Word := 0x00

/-- The register at a byte offset; offsets not listed have none (rule R32). -/
def hostRegAt (offset : Word) : Option HostReg :=
  match offset.toNat with
  | 0x00 => some .cmd
  | 0x04 => some .argPtr
  | 0x08 => some .argLen
  | 0x0C => some .argTimeout
  | 0x10 => some .argAddr
  | 0x14 => some .argMisc
  | 0x18 => some .argMaxlen
  | 0x20 => some .result
  | 0x24 => some .replyPtr
  | 0x28 => some .replyLen
  | 0x2C => some .retVal
  | 0x30 => some .eventPop
  | 0x34 => some .eventCount
  | 0x40 => some .port
  | 0x44 => some .txIndex
  | 0x48 => some .rxIndex
  | 0x4C => some .arenaPtr
  | 0x50 => some .tidNext
  | 0x54 => some .addrs
  | 0x58 => some .hkPort
  | _ => none

/-- What `HK_PORT` reads: sign-extended, all ones when absent (rule R32). -/
def hkPortWord (s : State) : Word := if s.cfg.hasHkMirror then s.regs.hkPort.signExtend 32 else 0xFFFFFFFF

/-- `EVENT_COUNT`: saturated at `2^32 - 1` (spec/60_exceptions.md rule R361). -/
def eventCount (s : State) : Word := BitVec.ofNat 32 (min s.events.length (2 ^ 32 - 1))

/-- A read of `EVENT_POP`: the oldest event as a word and removed, 0 when there is none (rule R361). -/
def popEvent (s : State) : Word × State :=
  match s.events with
  | [] => (0, s)
  | e :: rest => (e.toWord, { s with events := rest })

/-- A register read: the word and the state after it. No read but that of `EVENT_POP` changes anything (rule R76).
`CMD` is write-only and the spec states no value for a read of it: a free value, the same at the next read (log 17). -/
def readReg (s : State) : HostReg → Word × State
  | .cmd => (Config.freeCmdReadback s.env.freeCount, s)
  | .argPtr => (s.args.ptr, s)
  | .argLen => (s.args.len, s)
  | .argTimeout => (s.args.timeout, s)
  | .argAddr => (s.args.addr, s)
  | .argMisc => (s.args.misc, s)
  | .argMaxlen => (s.args.maxlen, s)
  | .result => (s.res.result.setWidth 32, s)
  | .replyPtr => (s.res.replyPtr, s)
  | .replyLen => (s.res.replyLen, s)
  | .retVal => (s.res.retVal, s)
  | .eventPop => popEvent s
  | .eventCount => (eventCount s, s)
  | .port => (s.regs.port.signExtend 32, s)
  | .txIndex => (BitVec.ofNat 32 s.regs.txIndex, s)
  | .rxIndex => (BitVec.ofNat 32 s.regs.rxIndex, s)
  | .arenaPtr => (BitVec.ofNat 32 s.regs.arenaPtr, s)
  | .tidNext => (s.regs.tidNext.setWidth 32, s)
  | .addrs => ((s.regs.srcAddr ++ s.regs.destAddr).setWidth 32, s)
  | .hkPort => (hkPortWord s, s)

/-- The host reads a word of the port; offsets not listed read 0 (rule R32). -/
def hostRead (offset : Word) (s : State) : State :=
  let r := match hostRegAt offset with
    | some reg => readReg s reg
    | none => (0, s)
  r.2.setEnv { r.2.env with readData := r.1 }

/-- A write of a register other than `CMD`: an operand register stores the value, every other register is
read-only and ignores it (rules R32, R76; log 16). -/
def storeReg (v : Word) (s : State) : HostReg → State
  | .argPtr => s.setArgs { s.args with ptr := v }
  | .argLen => s.setArgs { s.args with len := v }
  | .argTimeout => s.setArgs { s.args with timeout := v }
  | .argAddr => s.setArgs { s.args with addr := v }
  | .argMisc => s.setArgs { s.args with misc := v }
  | .argMaxlen => s.setArgs { s.args with maxlen := v }
  | .cmd | .result | .replyPtr | .replyLen | .retVal | .eventPop | .eventCount | .port | .txIndex | .rxIndex
  | .arenaPtr | .tidNext | .addrs | .hkPort => s

/-- The host changes a byte of its own memory (rule R44). -/
def hostMemWrite (a : Word) (b : Byte) (s : State) : State := { s with hostMem := s.hostMem.write a.toNat b }

end Sys2Proof.Machine
end

