-- ==== Sys2Proof/Machine/Sequencer.lean ====
section
/-! DEFINITION. One step of the machine: the next thing the environment does (`env.agenda`), or a poll of the
running blocking command (spec/20_memory.md rules R75, R81; spec/44_blocking.md rules R281, R282). -/

namespace Sys2Proof.Machine

open Sys2Proof

/-- The agenda without its head. -/
def State.withAgenda (s : State) (rest : List Input) : State := s.setEnv { s.env with agenda := rest }

/-- What runs a command. -/
abbrev Runner := Instr → State → Host.Outcome State Fault Refusal

/-- A command word is written to `CMD`: the command runs, by `run`; an illegal word ends with `ILLEGAL_COMMAND` and changes
nothing else (spec/30_encoding.md rule R105, spec/60_exceptions.md rule R357). -/
def runWord (run : Runner) (w : Word) (s : State) : Host.Outcome State Fault Refusal :=
  match decode w with
  | .ok i => run i s
  | .error _ => .next (s.raise .illegalCommand)

/-- The host writes a word to the port; offsets not listed ignore it (spec/10_state.md rule R32). -/
def hostWrite (run : Runner) (offset v : Word) (s : State) : Host.Outcome State Fault Refusal :=
  match hostRegAt offset with
  | some .cmd => runWord run v s
  | some reg => .next (storeReg v s reg)
  | none => .next s

/-- A turn of the sequencer: a poll of the running blocking command (spec/44_blocking.md rule R280); an idle
controller waits for a command word (spec/70_reset_and_hazards.md rule R391). -/
def sequencerTurn (crc : List Byte → Byte) (s : State) : Host.Outcome State Fault Refusal :=
  match s.seq with
  | .idle => .next s
  | .blocking c start timeout => poll crc c start timeout s

/-- The sequencer is idle: the port takes accesses (rule R281). -/
def State.portFree (s : State) : Bool := s.seq == .idle

/-- One step (log 8): the head of the agenda. DMA steps and changes of `HOSTMEM` happen whatever the sequencer does
(rule R282, spec/10_state.md rule R44). A port access waits while a blocking command runs, and the step is then a
poll (rule R281; log 13). With nothing on the agenda the sequencer has its turn. `crc` is the parameter `crc8`, `run` runs
the commands. -/
def advance (crc : List Byte → Byte) (run : Runner) (s : State) : Host.Outcome State Fault Refusal :=
  match s.env.agenda with
  | [] => sequencerTurn crc s
  | .poll :: rest => sequencerTurn crc (s.withAgenda rest)
  | .dmaTx t :: rest => dmaTx crc t (s.withAgenda rest)
  | .dmaTxErr t :: rest => dmaTxErr t (s.withAgenda rest)
  | .dmaRx i pkt eep :: rest => dmaRx i pkt eep (s.withAgenda rest)
  | .hostMem a b :: rest => .next (hostMemWrite a b (s.withAgenda rest))
  | .write offset v :: rest =>
    if s.portFree then hostWrite run offset v (s.withAgenda rest) else sequencerTurn crc s
  | .read offset :: rest =>
    if s.portFree then .next (hostRead offset (s.withAgenda rest)) else sequencerTurn crc s

/-- The model refuses parameters that break spec/00_scope.md rule R8. The commands are those of `exec`, and the checksum
is the one the state names (log 1, log 3). -/
def stepMachine (s : State) : Host.Outcome State Fault Refusal :=
  if s.cfg.ok then advance (crc8 s.cfg) exec s else .refused .configOutOfRange

/-- A command word the host is about to write to `CMD`, with the sequencer idle so that the port takes it: where
the next step finds its command (log 23). -/
def offerCommand (w : Word) (s : State) : State :=
  (s.withAgenda (.write cmdOffset w :: s.env.agenda)).setSeq .idle

end Sys2Proof.Machine
end

