-- ==== Sys2Proof/Machine/Step.lean ====
section
/-! DEFINITION. step, and where it finds its next instruction. -/

namespace Sys2Proof.Machine

open Sys2Proof

/-- One atomic step of the machine (spec/20_memory.md rules R75, R81). -/
def step (s : State) : Host.Outcome State Fault Refusal := stepMachine s

/-- `s` with the command word `w` written to `CMD` by the host as the next thing that happens. A command is one
32-bit word (spec/30_encoding.md rule R106). -/
def State.withFetchWord (s : State) (nbits w : Nat) : State := offerCommand (BitVec.ofNat 32 (w % 2 ^ nbits)) s

end Sys2Proof.Machine
end

