-- ==== Sys2Proof/Machine/Parameterised.lean ====
section
/-! DEFINITION. The machine of every `Config` (spec/00_scope.md rule R7). `step` and `exec` have no `Config` to take,
so they run with what the state holds of one (`Build`); here the whole record is an argument, and its `crc8` is any
function with the laws of rule R8 (d). `exec` is `command` at the checksum the state names (Laws/Exec.lean,
`exec_eq_command`). -/

namespace Sys2Proof.Machine

open Sys2Proof

/-- The commands with the checksum `crc`. Those that compute no checksum are the meanings of `exec`. -/
def command (crc : List Byte → Byte) (i : Instr) (s : State) : Host.Outcome State Fault Refusal :=
  match i with
  | .reset => channelReset crc s
  | .isActive => execIsActive s
  | .setPort port => setPortCommand crc port s
  | .sendCommand c instruction => execSendCommand c instruction s
  | .getReply c => getReply crc c s
  | .sendCommandBlocking c => execSendCommandBlocking c s
  | .setPortAddr port => setPortAddrCommand crc port s
  | .openCookie => execOpenCookie s
  | .reOpen c => execReOpen c s
  | .close c => execClose c s
  | .setAddress c => execSetAddress c s
  | .getAddress c => execGetAddress c s
  | .sendWrite c => execSendWrite c s
  | .getWriteReply c => getDirected crc true c s
  | .sendRead c => execSendRead c s
  | .getReadReply c => getDirected crc false c s
  | .writeBlocking c => execWriteBlocking c s
  | .readBlocking c => execReadBlocking c s
  | .resetViaCookie c => cookieReset crc c s

/-- The state after power-on of the machine of a `Config` (spec/10_state.md rule R60). The checksum the state names is not
read by that machine. -/
def powerOnOf (cfg : Config) (u : Unspecified) : State := State.powerOn { cfg with crc := .standard } u

/-- `s` with the parameters of a `Config`. -/
def State.withParams (s : State) (cfg : Config) : State := { s with cfg := { s.cfg with toParams := cfg.toParams } }

/-- One step of the machine of a `Config`, which is refused when it breaks spec/00_scope.md rule R8 (log 1). Parameters and
checksum are those of `cfg`, whatever the state names. -/
def stepOf (cfg : Config) (s : State) : Host.Outcome State Fault Refusal :=
  if cfg.ok then advance cfg.crc8 (command cfg.crc8) (s.withParams cfg) else .refused .configOutOfRange

end Sys2Proof.Machine
end

