-- ==== Sys2Proof/Safety.lean ====
section
/-! DEFINITION. The terms the statements about the controller use: the invariants of a run
(spec/10_state.md rule R57), when a send is accepted (spec/41_send.md rules R181 to R189), what a reset
reports (spec/40_channel_control.md), well-formed replies (spec/30_encoding.md rules R118, R120), which inputs a
command reads (spec/10_state.md rules R40 to R42). -/

namespace Sys2Proof.Machine

open Sys2Proof

/-! ## Invariants of a run (rule R57) -/

/-- The reply slots lie in the arena one after the other (rule R57 (c), (d)): `caps` holds the capacity each slot
below `RX_INDEX` was programmed with. -/
structure ArenaLayout (s : State) (caps : List Nat) : Prop where
  count : caps.length = s.regs.rxIndex
  /-- (d) -/
  total : caps.sum = s.regs.arenaPtr
  start : ∀ i, i < s.regs.rxIndex → (s.rxAt i).ptr.toNat = (caps.take i).sum
  fits : ∀ i, i < s.regs.rxIndex → (s.rxAt i).len.toNat ≤ caps.getD i 0
  whole : ∀ i, i < s.regs.rxIndex → (s.rxAt i).en = true → (s.rxAt i).len.toNat = caps.getD i 0

/-- The sequencer's state makes sense: the cookie of a running blocking command is open (spec/44_blocking.md rule
R285) and it started no later than the last reading of the timer. -/
def SequencerOk (s : State) : Prop :=
  match s.seq with
  | .idle => True
  | .blocking c start _ => s.cookieValid c = true ∧ start ≤ s.env.timer

/-- What holds in every state a run can reach: rule R57, the sizes of the tables, the ranges of the registers and
the canonical form of the memories. -/
structure RunInv (s : State) : Prop where
  config : s.cfg.ok = true
  txLength : s.tx.length = s.cfg.maxTx
  rxLength : s.rx.length = s.cfg.maxRx
  ftLength : s.ft.length = s.cfg.maxRx
  ctxLength : s.ctx.length = s.cfg.nCookies
  portLength : s.portReg.length = s.cfg.nPorts
  /-- `PORT` is -1 or a port of the device list (rule R23) -/
  port : s.regs.port = 0xFF ∨ s.regs.port.toNat < s.cfg.nPorts
  /-- (a) -/
  txIndex : s.regs.txIndex ≤ s.cfg.maxTx
  rxIndex : s.regs.rxIndex ≤ s.cfg.maxRx
  arenaPtr : s.regs.arenaPtr ≤ s.cfg.arenaSize
  /-- (b) -/
  unreserved : ∀ i, s.regs.rxIndex ≤ i → s.rxAt i = RxDesc.zero ∧ s.ftAt i = 0
  /-- (c), (d) -/
  layout : ∃ caps, ArenaLayout s caps
  /-- (e) -/
  classifiedReady : ∀ i, (s.ftAt i).getLsbD 0 = true → (s.rxAt i).ready = true
  /-- (f) -/
  entryReserved : ∀ i, (s.ftAt i).extractLsb' 12 4 = 0
  txReserved : ∀ t, (s.txAt t).ctrl.extractLsb' 4 28 = 0
  rxReserved : ∀ i, (s.rxAt i).ctrl.extractLsb' 3 29 = 0
  /-- an enabled TX slot carries no link error (spec/60_exceptions.md rule R355) -/
  enabledNoError : ∀ t, (s.txAt t).en = true → (s.txAt t).le = false
  /-- bytes 3 and 15 of every header stay 0 (spec/41_send.md rule R196, spec/45_context.md rule R292) -/
  keyAndCrc : ∀ c, (s.ctxAt c).hdr.destKey = 0 ∧ (s.ctxAt c).hdr.headerCrc = 0
  /-- every pointer and index names something (spec/20_memory.md rule R79) -/
  pointers : s.pointersInRange = true
  arenaForm : s.arena.wf = true
  arenaExtent : s.arena.below s.cfg.arenaSize = true
  hostForm : s.hostMem.wf = true
  hostExtent : s.hostMem.below (2 ^ 32) = true
  sequencer : SequencerOk s

/-- What the spec leaves unspecified at power-on has the shape of its configuration. -/
structure UnspecifiedOk (cfg : Build) (u : Unspecified) : Prop where
  portLength : u.portReg.length = cfg.nPorts
  arenaForm : u.arena.wf = true
  arenaExtent : u.arena.below cfg.arenaSize = true
  hostForm : u.hostMem.wf = true
  hostExtent : u.hostMem.below (2 ^ 32) = true

/-! ## When a send is accepted (rules R181 to R189) -/

/-- Every check of SEND_COMMAND passes, in the spec's own terms, and `t` is the TX slot it takes. -/
structure SendAccepts (c : Nat) (instruction : Byte) (datalen : Word) (t : Nat) (s : State) : Prop where
  /-- rule R181 -/
  cookie : s.cookieValid c = true
  /-- rule R183 -/
  port : s.regs.port ≠ 0xFF
  /-- rules R182, R184 -/
  length : if (instruction ||| (s.ctxAt c).mask).getLsbD 5 then datalen.toNat < 2 ^ 24
    else datalen.toNat + 13 ≤ s.cfg.maxPacketLen
  /-- rule R185 -/
  headroom : s.cfg.arenaHeadroom ≤ s.cfg.arenaSize - s.regs.arenaPtr
  /-- rule R186 -/
  rxSlot : s.regs.rxIndex < s.cfg.maxRx
  /-- rule R188 -/
  txSlot : (s.regs.txIndex < s.cfg.maxTx ∧ t = s.regs.txIndex) ∨
    (s.cfg.maxTx ≤ s.regs.txIndex ∧ s.cfg.maxTx = 64 ∧ t = 0)
  /-- rule R189 -/
  free : (s.txAt t).en = false

/-- The cookie operand of a command (spec/60_exceptions.md rule R356). -/
def handleOperand : Instr → Option Nat
  | .reset | .isActive | .setPort _ | .setPortAddr _ | .openCookie => none
  | .sendCommand c _ | .getReply c | .sendCommandBlocking c | .reOpen c | .close c | .setAddress c | .getAddress c
  | .sendWrite c | .getWriteReply c | .sendRead c | .getReadReply c | .writeBlocking c | .readBlocking c
  | .resetViaCookie c => some c

/-- The commands that refuse a null pointer before anything else (spec/46_facade.md rules R312, R316). -/
def checksPointer : Instr → Bool
  | .sendWrite _ | .writeBlocking _ => true
  | .reset | .isActive | .setPort _ | .setPortAddr _ | .openCookie | .sendCommand _ _ | .getReply _
  | .sendCommandBlocking _ | .reOpen _ | .close _ | .setAddress _ | .getAddress _ | .getWriteReply _ | .sendRead _
  | .getReadReply _ | .readBlocking _ | .resetViaCookie _ => false

/-- The commands that run a channel reset (spec/70_reset_and_hazards.md rule R392). -/
def resetsChannel : Instr → Bool
  | .reset | .setPort _ | .setPortAddr _ | .resetViaCookie _ => true
  | .isActive | .openCookie | .sendCommand _ _ | .getReply _ | .sendCommandBlocking _ | .reOpen _ | .close _
  | .setAddress _ | .getAddress _ | .sendWrite _ | .getWriteReply _ | .sendRead _ | .getReadReply _
  | .writeBlocking _ | .readBlocking _ => false

/-- The commands that send (spec/41_send.md, spec/44_blocking.md, spec/46_facade.md). -/
def sends : Instr → Bool
  | .sendCommand _ _ | .sendCommandBlocking _ | .sendWrite _ | .sendRead _ | .writeBlocking _ | .readBlocking _ => true
  | .reset | .isActive | .setPort _ | .setPortAddr _ | .openCookie | .getReply _ | .reOpen _ | .close _
  | .setAddress _ | .getAddress _ | .getWriteReply _ | .getReadReply _ | .resetViaCookie _ => false

/-! ## What a send leaves (rules R190 to R199) -/

/-- The size of the slot a send reserves (rule R192). -/
def reservedSize (ins : Byte) (datalen : Word) : Nat := if ins.getLsbD 5 then 8 else 12 + datalen.toNat + 1

/-- The state after a send of the effective instruction `ins` in TX slot `t`, before `RESULT` is written, with
every field written out. -/
def programmed (s : State) (c : Nat) (ins : Byte) (ptr datalen : Word) (t : Nat) : State :=
  { s with
    ctx := s.ctx.set c
      { s.ctxAt c with
        hdr :=
          { destAddress := s.regs.destAddr
            protocol := 0x01
            instruction := ins
            destKey := (s.ctxAt c).hdr.destKey
            sourceAddress := s.regs.srcAddr
            tidH := s.regs.tidNext.extractLsb' 8 8
            tidL := s.regs.tidNext.extractLsb' 0 8
            extendedAddress := (s.ctxAt c).ext
            addressHH := (s.ctxAt c).addr.extractLsb' 24 8
            addressH := (s.ctxAt c).addr.extractLsb' 16 8
            addressL := (s.ctxAt c).addr.extractLsb' 8 8
            addressLL := (s.ctxAt c).addr.extractLsb' 0 8
            datalenH := datalen.extractLsb' 16 8
            datalenM := datalen.extractLsb' 8 8
            datalenL := datalen.extractLsb' 0 8
            headerCrc := (s.ctxAt c).hdr.headerCrc }
        txdValid := true
        txdesc := t
        rxdescIndex := s.regs.rxIndex }
    rx := s.rx.set s.regs.rxIndex
      { ctrl := 0x00000001, ptr := BitVec.ofNat 32 s.regs.arenaPtr, len := BitVec.ofNat 32 (reservedSize ins datalen) }
    tx := s.tx.set t
      (if ins.getLsbD 5 then { ctrl := 0x0000000D, hptr := BitVec.ofNat 32 (c + 1), len := datalen, dptr := ptr }
        else { ctrl := 0x00000005, hptr := BitVec.ofNat 32 (c + 1), len := 0, dptr := 0 })
    regs :=
      { s.regs with
        txIndex := t + 1
        rxIndex := s.regs.rxIndex + 1
        arenaPtr := s.regs.arenaPtr + reservedSize ins datalen
        tidNext := s.regs.tidNext + 1 } }

/-! ## The scan of find_reply (spec/42_reply.md rules R216 to R220) -/

/-- `s, s-1, ..., 0`, then `s+1, ..., MAX_RX-1`, for the cookie's remembered index `s` (rule R216). -/
def scanOrder (s : State) (c : Nat) : List Nat :=
  (List.range ((s.ctxAt c).rxdescIndex + 1)).reverse ++
    List.range' ((s.ctxAt c).rxdescIndex + 1) (s.cfg.maxRx - ((s.ctxAt c).rxdescIndex + 1))

/-- The failure-table entry of a slot once a scan has visited it: a classified slot and a slot that is not ready
keep theirs (spec/43_validator.md rules R241, R242), a ready one has the verdict on its packet (rule R256).
`crc` is the parameter `crc8`, as in every term that takes it. -/
def entryAfter (crc : List Byte → Byte) (s : State) (i : Nat) : Half :=
  if (s.ftAt i).getLsbD 0 then s.ftAt i
  else if (s.rxAt i).ready then verdict crc s (s.rxAt i) (s.pkt i)
  else s.ftAt i

/-- `matches(i, c)` (rule R218), of the entry the slot has once it is visited. -/
def satisfies (crc : List Byte → Byte) (s : State) (c i : Nat) : Bool :=
  entryAfter crc s i == 0x0001 &&
  (pktByte (s.pkt i) 5 == (s.ctxAt c).hdr.tidH && pktByte (s.pkt i) 6 == (s.ctxAt c).hdr.tidL) &&
  pktByte (s.pkt i) 2 &&& 0x3F == (s.ctxAt c).hdr.instruction &&& 0x3F

/-- The first slot in scan order that matches (rule R220). -/
def firstMatch (crc : List Byte → Byte) (s : State) (c : Nat) : Option Nat := (scanOrder s c).find? (satisfies crc s c)

/-- The members of a list up to and with the first that has the property. -/
def upToFirst (p : Nat → Bool) : List Nat → List Nat
  | [] => []
  | i :: rest => if p i then [i] else i :: upToFirst p rest

/-- The slots the scan visits (rules R216, R217). -/
def visited (crc : List Byte → Byte) (s : State) (c : Nat) : List Nat := upToFirst (satisfies crc s c) (scanOrder s c)

/-- The failure table after the scan: the visited slots classified, no other entry changed (rule R217). -/
def tableAfterScan (crc : List Byte → Byte) (s : State) (c : Nat) : List Half :=
  (List.range s.ft.length).map fun j => if j ∈ visited crc s c then entryAfter crc s j else s.ftAt j

/-! ## What check_tx_desc looks at (rules R212, R213) -/

/-- The remembered TX slot has been set, is not cleared, and the header it points at carries the cookie's id. -/
def TxSlotOurs (s : State) (c : Nat) : Prop :=
  (s.ctxAt c).txdValid = true ∧ (s.txAt (s.ctxAt c).txdesc).hptr ≠ 0 ∧
    (s.ctxAt ((s.txAt (s.ctxAt c).txdesc).hptr.toNat - 1)).hdr.tidH = (s.ctxAt c).hdr.tidH ∧
    (s.ctxAt ((s.txAt (s.ctxAt c).txdesc).hptr.toNat - 1)).hdr.tidL = (s.ctxAt c).hdr.tidL

/-- `check_tx_desc` passes: the slot is not the cookie's any more, or it is sent without a link error. -/
def TxCheckPasses (s : State) (c : Nat) : Prop :=
  TxSlotOurs s c → (s.txAt (s.ctxAt c).txdesc).en = false ∧ (s.txAt (s.ctxAt c).txdesc).le = false

/-! ## What RESET reports (spec/40_channel_control.md rules R151 to R156) -/

/-- `m` is the number of enabled slots counted from the last reserved one down to the first that is not (rule
R154). -/
def MissedCount (s : State) (m : Nat) : Prop :=
  m ≤ s.regs.rxIndex ∧ (∀ i, s.regs.rxIndex - m ≤ i → i < s.regs.rxIndex → (s.rxAt i).en = true) ∧
    (m < s.regs.rxIndex → (s.rxAt (s.regs.rxIndex - m - 1)).en = false)

/-- Some reserved slot that was not classified before has the failure (rule R156). -/
def newlyFailed (crc : List Byte → Byte) (s : State) (f : Failure) : Bool :=
  (List.range s.regs.rxIndex).any fun i => !(s.ftAt i).getLsbD 0 && (entryAfter crc s i).getLsbD f.bit

/-- The events of a channel reset that reads `link` and `status`, where `m` replies were missed (rule R363). -/
def resetEvents (crc : List Byte → Byte) (s : State) (link : BitVec 3) (status : Word) (m : Nat) : List Event :=
  (if s.regs.port = 0xFF then []
    else (if link = 5 then [] else [⟨.linkDown, s.regs.port.toInt⟩]) ++
      ([(0, EventKind.spwCredit), (1, .spwEscape), (2, .spwDisconnect), (3, .spwParity), (4, .spwWriteSync),
        (5, .spwInvalidAddress), (6, .spwEarlyEop)].filter fun b => status.getLsbD b.1).map
        (fun b => ⟨b.2, s.regs.port.toInt⟩) ++
      (if status.extractLsb' 8 2 = 0 then [] else [⟨.dmaError, ((status.extractLsb' 8 2).toNat : Int)⟩])) ++
  (if m = 0 then [] else [⟨.missedReplies, (m : Int)⟩]) ++
  (Failure.all.filter (newlyFailed crc s)).map fun f => ⟨.rxFailure f, 0⟩

/-- What a channel reset clears (rule R157; spec/70_reset_and_hazards.md rule R392). -/
def cleared (s : State) : State :=
  { s with
    tx := List.replicate s.cfg.maxTx ⟨0, 0, 0, 0⟩
    rx := List.replicate s.cfg.maxRx ⟨0, 0, 0⟩
    ft := List.replicate s.cfg.maxRx 0
    regs := { s.regs with txIndex := 0, rxIndex := 0, arenaPtr := 0 } }

/-! ## Well-formed replies (spec/30_encoding.md rules R118, R120) -/

/-- Bytes 0 to 6 of a reply to a command with instruction byte `ins` and id `tid`, sent under the controller's
addresses `src` and `dest`. -/
def replyHead (src dest ins status : Byte) (tid : Half) : List Byte :=
  [src, 0x01, ins &&& 0x3F, status, dest, tid.extractLsb' 8 8, tid.extractLsb' 0 8]

/-- A write reply: the head and its CRC. -/
def writeReply (crc : List Byte → Byte) (src dest ins status : Byte) (tid : Half) : List Byte :=
  replyHead src dest ins status tid ++ [crc (replyHead src dest ins status tid)]

/-- The first eleven bytes of a read reply that announces `n` bytes. -/
def readReplyHead (src dest ins status : Byte) (tid : Half) (n : Nat) : List Byte :=
  replyHead src dest ins status tid ++
    [0, (BitVec.ofNat 24 n).extractLsb' 16 8, (BitVec.ofNat 24 n).extractLsb' 8 8, (BitVec.ofNat 24 n).extractLsb' 0 8]

/-- A read reply: head, header CRC, payload, data CRC. -/
def readReply (crc : List Byte → Byte) (src dest ins status : Byte) (tid : Half) (data : List Byte) :
    List Byte :=
  readReplyHead src dest ins status tid data.length ++
    [crc (readReplyHead src dest ins status tid data.length)] ++ data ++ [crc data]

/-! ## Ends of commands -/

/-- A command has ended with a result code and changed nothing else (spec/60_exceptions.md rule R350). -/
def ended (s : State) (code : Half) : State := { s with res := { s.res with result := code } }

/-- The code a reply's status byte becomes (spec/42_reply.md rule R223; spec/60_exceptions.md rule R352). -/
def statusCode (status : Byte) : Half := if status = 0 then 0x0000 else 0x0200 ||| status.setWidth 16

/-- A command reads `LINKSTATE`, `STATUS` and `TIMER` so many times and does nothing else to the environment: each
script loses as many values as are read of it, and the draw counter moves once for each reading its script did not
hold. -/
structure InputsRead (links statuses timers : Nat) (e e' : Env) : Prop where
  agenda : e'.agenda = e.agenda
  readData : e'.readData = e.readData
  linkDraws : e'.linkDraws = e.linkDraws.drop links
  statusDraws : e'.statusDraws = e.statusDraws.drop statuses
  timerDraws : e'.timerDraws = e.timerDraws.drop timers
  timer : e.timer ≤ e'.timer
  timerUnread : timers = 0 → e'.timer = e.timer
  freeCount : e'.freeCount = e.freeCount + (links - e.linkDraws.length) + (statuses - e.statusDraws.length) +
    (timers - e.timerDraws.length)

end Sys2Proof.Machine
end

