-- ==== Sys2Proof/Certificates/Slice0/Obligations.lean ====
section
/-! DEFINITION. The statements for the provers. A statement about every state holds in states no run reaches; where
it needs an invariant of a run it says so. Log numbers are those of notes/assumptions. -/

open Sys2Proof Sys2Proof.Machine

/-! ## Encoding -/

/-- Decoding what the encoder writes gives the command back, for every command whose operands fit their fields
(spec/30_encoding.md rules R101, R102, R104). -/
def Obligations.DecodeEncode : Prop := ∀ i : Instr, i.wellFormed = true → decode (encode i) = .ok i

/-- The decoder accepts a word exactly when a row of the table of rule R104 selects it, and then one row only. -/
def Obligations.DecoderAcceptsTheTable : Prop :=
  ∀ w : Word, (∃ i, decode w = .ok i) ↔
    ∃ r ∈ opcodeRows, r.selects w = true ∧ ∀ r' ∈ opcodeRows, r'.selects w = true → r' = r

/-- A decoded command is well formed, and encoding it gives the word back: the decoder drops no bit. -/
def Obligations.EncodeOfDecoded : Prop :=
  ∀ (w : Word) (i : Instr), decode w = .ok i → i.wellFormed = true ∧ encode i = w

/-- Words written out from rules R101 and R104, at least one for each of the nineteen opcodes, decode to their commands,
and illegal words of rule R105 do not decode. -/
def Obligations.SampleWordsDecode : Prop :=
  decode 0x00000001 = .ok .reset ∧ decode 0x00000002 = .ok .isActive ∧
  decode 0x00FF0003 = .ok (.setPort (-1)) ∧ decode 0x007E0003 = .ok (.setPort 126) ∧
  decode 0x00800007 = .ok (.setPortAddr (-128)) ∧ decode 0x00700004 = .ok (.sendCommand 0 0x70) ∧
  decode 0x0050FF04 = .ok (.sendCommand 255 0x50) ∧ decode 0x00000305 = .ok (.getReply 3) ∧
  decode 0x00000406 = .ok (.sendCommandBlocking 4) ∧ decode 0x00000010 = .ok .openCookie ∧
  decode 0x00000511 = .ok (.reOpen 5) ∧ decode 0x00000612 = .ok (.close 6) ∧
  decode 0x00000713 = .ok (.setAddress 7) ∧ decode 0x00000214 = .ok (.getAddress 2) ∧
  decode 0x00000120 = .ok (.sendWrite 1) ∧ decode 0x00000821 = .ok (.getWriteReply 8) ∧
  decode 0x00000922 = .ok (.sendRead 9) ∧ decode 0x00000A23 = .ok (.getReadReply 10) ∧
  decode 0x00000B24 = .ok (.writeBlocking 11) ∧ decode 0x00000C25 = .ok (.readBlocking 12) ∧
  decode 0x0000FF26 = .ok (.resetViaCookie 255) ∧
  (∀ i, decode 0x00000000 ≠ .ok i) ∧ (∀ i, decode 0x01000001 ≠ .ok i) ∧ (∀ i, decode 0x00000101 ≠ .ok i) ∧
  (∀ i, decode 0x00010005 ≠ .ok i)

/-! ## The step -/

/-- A command word the idle port is offered next is decoded and run, with the write taken off the agenda. -/
def Obligations.StepRunsTheCommand : Prop :=
  ∀ (s : State) (w : Word) (rest : List Input) (i : Instr), s.cfg.ok = true → s.seq = .idle →
    s.env.agenda = .write 0x00 w :: rest → decode w = .ok i → step s = exec i (s.withAgenda rest)

/-- A word that no row of the table selects ends with `ILLEGAL_COMMAND` and changes nothing but `RESULT`
(spec/60_exceptions.md rule R357). -/
def Obligations.IllegalWordChangesOnlyResult : Prop :=
  ∀ (s : State) (w : Word) (rest : List Input), s.cfg.ok = true → s.seq = .idle →
    s.env.agenda = .write 0x00 w :: rest → (∀ r ∈ opcodeRows, r.selects w = false) →
    step s = .next (ended (s.withAgenda rest) 0x010F)

/-- Parameters that break a constraint of spec/00_scope.md rule R8, its clause (d) on the checksum with the others, are
refused. That a range of rule R7 that R8 does not name is refused too, and a table of another length than 256 (the first
disjunct, `Build.ok`), is the model's choice (log 1; for the table log 3): no rule says so. -/
def Obligations.BadParametersAreRefused : Prop :=
  ∀ s : State,
    (s.cfg.ok = false ∨
      ¬(13 ≤ s.cfg.maxPacketLen ∧ s.cfg.maxPacketLen ≤ 2 ^ 24 + 12) ∨
      ¬(s.cfg.maxPacketLen ≤ s.cfg.arenaHeadroom) ∨
      ¬(s.cfg.arenaSize < 2 ^ 32 ∧ s.cfg.maxTx < 2 ^ 32 ∧ s.cfg.maxRx < 2 ^ 32) ∨
      ¬CrcLaws (crc8 s.cfg)) →
    step s = .refused .configOutOfRange

/-- An idle controller with nothing offered stays as it is (spec/70_reset_and_hazards.md rule R391; that this is a
step at all is the model's, log 8). -/
def Obligations.IdleControllerWaits : Prop :=
  ∀ s : State, s.cfg.ok = true → s.seq = .idle → s.env.agenda = [] → step s = .next s

/-- While a blocking command runs the port takes no access: the step is a poll of that command, and the access is
still waiting after it (spec/44_blocking.md rule R281; that the access waits is deduced, log 13). -/
def Obligations.PortWaitsWhileBlocking : Prop :=
  ∀ (s : State) (c start timeout : Nat) (offset v : Word) (rest : List Input), s.cfg.ok = true →
    s.seq = .blocking c start timeout →
    (s.env.agenda = .write offset v :: rest ∨ s.env.agenda = .read offset :: rest) →
    step s = poll (crc8 s.cfg) c start timeout s ∧ ∀ t, step s = .next t → t.env.agenda = s.env.agenda

/-! ## Power-on and invariants -/

/-- The state after power-on, for every parameter record and every value of what is unspecified
(spec/70_reset_and_hazards.md rule R390). -/
def Obligations.PowerOnState : Prop :=
  ∀ (cfg : Build) (u : Unspecified) (s : State), s = State.powerOn cfg u →
    s.cfg = cfg ∧ s.regs.port.toInt = -1 ∧ s.regs.hkPort.toInt = -1 ∧
    s.regs.destAddr = cfg.destAddrInit ∧ s.regs.srcAddr = cfg.srcAddrInit ∧
    s.regs.txIndex = 0 ∧ s.regs.rxIndex = 0 ∧ s.regs.arenaPtr = 0 ∧
    s.tx.length = cfg.maxTx ∧ (∀ t, s.txAt t = ⟨0, 0, 0, 0⟩) ∧
    s.rx.length = cfg.maxRx ∧ (∀ i, s.rxAt i = ⟨0, 0, 0⟩) ∧
    s.ft.length = cfg.maxRx ∧ (∀ i, s.ftAt i = 0) ∧
    s.ctx.length = cfg.nCookies ∧ (∀ c, s.ctxAt c = Ctx.zero) ∧
    s.args = ⟨0, 0, 0, 0, 0, 0⟩ ∧ s.res = ⟨0, 0, 0, 0⟩ ∧ s.events = [] ∧ s.wire = [] ∧
    s.regs.tidNext = u.tidNext ∧ s.arena = u.arena ∧ s.portReg = u.portReg

/-- The invariant holds after power-on. -/
def Obligations.InvAtPowerOn : Prop :=
  ∀ (cfg : Build) (u : Unspecified), cfg.ok = true → UnspecifiedOk cfg u → RunInv (State.powerOn cfg u)

/-- Every step keeps the invariant: rule R57, the shapes and ranges of the registers and tables, and the canonical
form of the memories. -/
def Obligations.StepKeepsInv : Prop := ∀ s t : State, RunInv s → step s = .next t → RunInv t

/-- Every state a run from power-on reaches meets the invariants the spec infers in spec/10_state.md rule R57, clause
by clause. -/
def Obligations.RunsMeetRule57 : Prop :=
  ∀ (cfg : Build) (u : Unspecified) (k : Nat) (t : State), cfg.ok = true → UnspecifiedOk cfg u →
    Host.Core.run Sys2Proof.core k (State.powerOn cfg u) = .next t →
    (t.regs.txIndex ≤ cfg.maxTx ∧ t.regs.rxIndex ≤ cfg.maxRx ∧ t.regs.arenaPtr ≤ cfg.arenaSize) ∧
    (∀ i, t.regs.rxIndex ≤ i → t.rxAt i = ⟨0, 0, 0⟩ ∧ t.ftAt i = 0) ∧
    (∃ cap : Nat → Nat,
      (∀ i, i < t.regs.rxIndex → (t.rxAt i).ptr.toNat + cap i ≤ cfg.arenaSize ∧
        (t.rxAt i).len.toNat ≤ cap i ∧ ((t.rxAt i).en = true → (t.rxAt i).len.toNat = cap i) ∧
        ∀ j, i < j → j < t.regs.rxIndex → (t.rxAt i).ptr.toNat + cap i ≤ (t.rxAt j).ptr.toNat) ∧
      t.regs.arenaPtr = ((List.range t.regs.rxIndex).map cap).sum) ∧
    (∀ i, (t.ftAt i).getLsbD 0 = true →
      (t.rxAt i).en = false ∧ ¬((t.rxAt i).ctrl = 0 ∧ (t.rxAt i).ptr = 0 ∧ (t.rxAt i).len = 0)) ∧
    (∀ i k, (12 ≤ k → (t.ftAt i).getLsbD k = false) ∧ (3 ≤ k → (t.rxAt i).ctrl.getLsbD k = false) ∧
      (4 ≤ k → (t.txAt i).ctrl.getLsbD k = false))

/-- Under the invariant no step faults, and the only refusal is of a DMA step that is not enabled (log 14): no
command, no poll and no port access ends a run. -/
def Obligations.InvStepsComplete : Prop :=
  ∀ s : State, RunInv s → (∃ t, step s = .next t) ∨
    (step s = .refused .dmaNotEnabled ∧ ∃ rest,
      (∃ t, s.env.agenda = .dmaTx t :: rest ∧ ¬(s.regs.port ≠ 0xFF ∧ (s.txAt t).en = true)) ∨
      (∃ t, s.env.agenda = .dmaTxErr t :: rest ∧ ¬(s.regs.port ≠ 0xFF ∧ (s.txAt t).en = true)) ∨
      (∃ i pkt eep, s.env.agenda = .dmaRx i pkt eep :: rest ∧ ¬(s.regs.port ≠ 0xFF ∧ (s.rxAt i).en = true)))

/-- The machine of every `Config` of spec/00_scope.md rule R7 in range, whatever function its `crc8` is: the invariant
holds after power-on, its steps keep the invariant and the parameters, and complete but for a DMA step on a descriptor
that is not enabled or with no port bound, which is refused (log 14); where a state names that function, its commands are those of `exec` and its step is `step` (log 1,
log 3). -/
def Obligations.EveryConfigIsAMachine : Prop :=
  ∀ cfg : Config, cfg.ok = true →
    (∀ u : Unspecified, UnspecifiedOk (powerOnOf cfg u).cfg u →
      RunInv (powerOnOf cfg u) ∧ (powerOnOf cfg u).cfg.toParams = cfg.toParams) ∧
    ∀ s : State, RunInv s → s.cfg.toParams = cfg.toParams →
      ((∃ t, stepOf cfg s = .next t ∧ RunInv t ∧ t.cfg = s.cfg) ∨
        (stepOf cfg s = .refused .dmaNotEnabled ∧ ∃ rest,
          (∃ t, s.env.agenda = .dmaTx t :: rest ∧ ¬(s.regs.port ≠ 0xFF ∧ (s.txAt t).en = true)) ∨
          (∃ t, s.env.agenda = .dmaTxErr t :: rest ∧ ¬(s.regs.port ≠ 0xFF ∧ (s.txAt t).en = true)) ∨
          (∃ i pkt eep, s.env.agenda = .dmaRx i pkt eep :: rest ∧
            ¬(s.regs.port ≠ 0xFF ∧ (s.rxAt i).en = true)))) ∧
      (crc8 s.cfg = cfg.crc8 → step s = stepOf cfg s ∧ ∀ i, exec i s = command cfg.crc8 i s)

/-! ## What no command does -/

/-- No command writes an operand register, a byte of `ARENA` or `HOSTMEM`, the wire or a parameter, and none takes
an event away. -/
def Obligations.CommandsLeaveAlone : Prop :=
  ∀ (i : Instr) (s t : State), exec i s = .next t →
    t.cfg = s.cfg ∧ t.args = s.args ∧ (∀ a, t.arena.read a = s.arena.read a) ∧ t.arena = s.arena ∧
    (∀ a, t.hostMem.read a = s.hostMem.read a) ∧ t.hostMem = s.hostMem ∧ t.wire = s.wire ∧
    (∃ es, t.events = s.events ++ es) ∧ t.env.agenda = s.env.agenda

/-- Which commands change which field of a context (spec/45_context.md rule R299). -/
def Obligations.CookieLifecycle : Prop :=
  ∀ (i : Instr) (s t : State) (c : Nat), exec i s = .next t →
    ((s.ctxAt c).valid = false → (t.ctxAt c).valid = true → i = .openCookie) ∧
    ((s.ctxAt c).valid = true → (t.ctxAt c).valid = false → i = .close c) ∧
    ((t.ctxAt c).ext ≠ (s.ctxAt c).ext ∨ (t.ctxAt c).mask ≠ (s.ctxAt c).mask → i = .openCookie) ∧
    ((t.ctxAt c).addr ≠ (s.ctxAt c).addr → i = .openCookie ∨ i = .reOpen c ∨ i = .setAddress c) ∧
    ((t.ctxAt c).maxlen ≠ (s.ctxAt c).maxlen → i = .openCookie ∨ i = .reOpen c) ∧
    ((t.ctxAt c).hdr ≠ (s.ctxAt c).hdr ∨ (t.ctxAt c).txdValid ≠ (s.ctxAt c).txdValid ∨
        (t.ctxAt c).txdesc ≠ (s.ctxAt c).txdesc ∨ (t.ctxAt c).rxdescIndex ≠ (s.ctxAt c).rxdescIndex →
      i = .openCookie ∨ (sends i = true ∧ handleOperand i = some c))

/-- Only sends and channel resets write a descriptor or a controller register, and no channel reset changes
`TID_NEXT` or a cookie (spec/10_state.md rules R25 to R28, spec/45_context.md rule R300). -/
def Obligations.RingsMoveOnlyBySendsAndResets : Prop :=
  ∀ (i : Instr) (s t : State), exec i s = .next t →
    (sends i = false → resetsChannel i = false →
      t.regs = s.regs ∧ t.tx = s.tx ∧ t.rx = s.rx ∧ t.portReg = s.portReg) ∧
    (resetsChannel i = true → t.regs.tidNext = s.regs.tidNext ∧ t.ctx = s.ctx)

/-- A handle that names no open cookie: `COMMAND_NO_CHANNEL` and nothing else, for every command with a cookie
operand; in the two commands that test the pointer first a null pointer comes before it (spec/60_exceptions.md rule
R356). -/
def Obligations.InvalidCookieIsRefused : Prop :=
  ∀ (i : Instr) (c : Nat) (s : State), handleOperand i = some c →
    ¬(c < s.cfg.nCookies ∧ (s.ctxAt c).valid = true) →
    exec i s = .next (ended s (if checksPointer i = true ∧ s.args.ptr = 0 then 0x010E else 0x0101))

/-- SEND_WRITE and WRITE_BLOCKING refuse the null pointer before anything else, whatever the cookie and the length
(spec/46_facade.md rules R311, R312, R316). -/
def Obligations.NullPointerIsRefused : Prop :=
  ∀ (i : Instr) (s : State), checksPointer i = true → s.args.ptr = 0 → exec i s = .next (ended s 0x010E)

/-! ## Sends -/

/-- SEND_COMMAND, the whole decision list of spec/41_send.md rules R181 to R189: the first check that fails gives the
code and nothing else changes (but the event of rule R186); when none fails the send is programmed. -/
def Obligations.SendCommandDecides : Prop :=
  ∀ (s : State) (c : Nat) (instruction ins : Byte) (t : Nat), ins = instruction ||| (s.ctxAt c).mask →
    t = (if s.regs.txIndex < s.cfg.maxTx then s.regs.txIndex else 0) →
    exec (.sendCommand c instruction) s = .next (
      if ¬(c < s.cfg.nCookies ∧ (s.ctxAt c).valid = true) then ended s 0x0101
      else if s.regs.port = 0xFF then ended s 0x0104
      else if ins.getLsbD 5 = true ∧ 2 ^ 24 ≤ s.args.len.toNat then ended s 0x0206
      else if ins.getLsbD 5 = false ∧ s.cfg.maxPacketLen < s.args.len.toNat + 1 + 12 then ended s 0x0206
      else if s.cfg.arenaSize - s.regs.arenaPtr < s.cfg.arenaHeadroom then ended s 0x0103
      else if s.cfg.maxRx ≤ s.regs.rxIndex then
        ended { s with events := s.events ++ [⟨.noRxDescriptors, (s.regs.rxIndex : Int)⟩] } 0x0102
      else if s.cfg.maxTx ≤ s.regs.txIndex ∧ s.cfg.maxTx ≠ 64 then ended s 0x0102
      else if (s.txAt t).en = true then ended s 0x0102
      else ended (programmed s c ins s.args.ptr s.args.len t) 0x0000)

/-- SEND_COMMAND, accepted: header, RX and TX descriptor, remembered slots, indices, arena pointer and id as rules
R190 to R199 say, `RESULT` is `OK`, and every other register, table, byte and context is as before. -/
def Obligations.SendCommandPrograms : Prop :=
  ∀ (s : State) (c : Nat) (instruction : Byte) (t : Nat), SendAccepts c instruction s.args.len t s →
    exec (.sendCommand c instruction) s =
      .next (ended (programmed s c (instruction ||| (s.ctxAt c).mask) s.args.ptr s.args.len t) 0x0000)

/-- SEND_WRITE and SEND_READ, accepted: what SEND_COMMAND does with the instruction constants `0x70` and `0x50`, the
read with a null pointer (spec/46_facade.md rules R310, R312, R314). -/
def Obligations.FacadeSendsProgram : Prop :=
  ∀ (s : State) (c t : Nat),
    (s.args.ptr ≠ 0 → SendAccepts c 0x70 s.args.len t s →
      exec (.sendWrite c) s =
        .next (ended (programmed s c (0x70 ||| (s.ctxAt c).mask) s.args.ptr s.args.len t) 0x0000)) ∧
    (SendAccepts c 0x50 s.args.len t s →
      exec (.sendRead c) s = .next (ended (programmed s c (0x50 ||| (s.ctxAt c).mask) 0 s.args.len t) 0x0000))

/-- The first step of a blocking command whose send is accepted: the send is made, the timer is read, the sequencer
holds the cookie, that reading and the timeout, and `RESULT` is not written yet (spec/44_blocking.md rules R280,
R281, R284; spec/46_facade.md rules R316, R317; that `RESULT` waits is deduced, log 20). -/
def Obligations.BlockingCommandsSend : Prop :=
  ∀ (s : State) (c t : Nat) (i : Instr) (instruction : Byte) (ptr : Word),
    ((i = .sendCommandBlocking c ∧ instruction = (if s.args.ptr = 0 then 0x50 else 0x70) ∧ ptr = s.args.ptr) ∨
      (i = .writeBlocking c ∧ instruction = 0x70 ∧ ptr = s.args.ptr ∧ s.args.ptr ≠ 0) ∨
      (i = .readBlocking c ∧ instruction = 0x50 ∧ ptr = 0)) →
    SendAccepts c instruction s.args.len t s →
    ∃ e, InputsRead 0 0 1 s.env e ∧ (∀ d ∈ s.env.timerDraws.head?, e.timer = s.env.timer + d) ∧
      exec i s = .next
        { programmed s c (instruction ||| (s.ctxAt c).mask) ptr s.args.len t with
          seq := .blocking c e.timer s.args.timeout.toNat
          env := e }

/-- A blocking command whose send is refused ends in that first step exactly as SEND_COMMAND does. -/
def Obligations.BlockingRefusedAsSend : Prop :=
  ∀ (s : State) (c : Nat) (i : Instr) (instruction : Byte),
    ((i = .sendCommandBlocking c ∧ instruction = (if s.args.ptr = 0 then 0x50 else 0x70)) ∨
      (i = .writeBlocking c ∧ instruction = 0x70 ∧ s.args.ptr ≠ 0) ∨
      (i = .readBlocking c ∧ instruction = 0x50)) →
    (∀ t, ¬SendAccepts c instruction s.args.len t s) →
    exec i s = exec (.sendCommand c instruction) s

/-- A SEND_WRITE whose pointer is not null, and a SEND_READ, whose send is refused answer exactly what SEND_COMMAND
answers with the instruction constants `0x70` and `0x50` (spec/46_facade.md rules R312, R314). -/
def Obligations.FacadeSendRefusedAsSend : Prop :=
  ∀ (s : State) (c : Nat),
    (s.args.ptr ≠ 0 → (∀ t, ¬SendAccepts c 0x70 s.args.len t s) → exec (.sendWrite c) s = exec (.sendCommand c 0x70) s) ∧
    ((∀ t, ¬SendAccepts c 0x50 s.args.len t s) → exec (.sendRead c) s = exec (.sendCommand c 0x50) s)

/-- The slot an accepted send reserves is no longer than `MAX_PACKET_LEN`, begins at the old arena pointer, ends at
the new one and lies inside the arena (spec/41_send.md rules R192 to R194). -/
def Obligations.ReservedSlotInsideArena : Prop :=
  ∀ (s u : State) (c : Nat) (instruction : Byte) (t : Nat), s.cfg.ok = true → s.rx.length = s.cfg.maxRx →
    SendAccepts c instruction s.args.len t s → exec (.sendCommand c instruction) s = .next u →
    (u.rxAt s.regs.rxIndex).len.toNat ≤ s.cfg.maxPacketLen ∧
    (u.rxAt s.regs.rxIndex).ptr.toNat = s.regs.arenaPtr ∧
    u.regs.arenaPtr = s.regs.arenaPtr + (u.rxAt s.regs.rxIndex).len.toNat ∧
    u.regs.arenaPtr ≤ s.cfg.arenaSize ∧
    (u.rxAt s.regs.rxIndex).len.toNat =
      (if (instruction ||| (s.ctxAt c).mask).getLsbD 5 then 8 else 12 + s.args.len.toNat + 1)

/-! ## Replies -/

/-- GET_REPLY with a slot that matches: the first in scan order is delivered. The visited slots are classified and no
other entry changes; a read reply sets `REPLY_PTR` and `REPLY_LEN`, a write reply leaves them; the status byte gives
the code; nothing else changes. The facade's two commands do the same for a cookie of their direction
(spec/42_reply.md rules R216 to R223; spec/46_facade.md rules R313, R315). -/
def Obligations.GetReplyDelivers : Prop :=
  ∀ (s : State) (c k : Nat) (i : Instr),
    (i = .getReply c ∨ (i = .getWriteReply c ∧ (s.ctxAt c).hdr.instruction.getLsbD 5 = true) ∨
      (i = .getReadReply c ∧ (s.ctxAt c).hdr.instruction.getLsbD 5 = false)) →
    c < s.cfg.nCookies → (s.ctxAt c).valid = true → s.pointersInRange = true → s.ft.length = s.cfg.maxRx →
    TxCheckPasses s c → firstMatch (crc8 s.cfg) s c = some k →
    exec i s = .next (ended
      { s with
        ft := tableAfterScan (crc8 s.cfg) s c
        res := if 13 ≤ (s.rxAt k).len.toNat
          then { s.res with replyPtr := (s.rxAt k).ptr + 12, replyLen := (s.rxAt k).len - 13 } else s.res }
      (statusCode ((s.arena.readBytes (s.rxAt k).ptr.toNat (s.rxAt k).len.toNat).getD 3 0)))

/-- GET_REPLY, and the facade's two, when no slot matches after the full scan: `REPLY_NO_REPLY`, the ready slots
classified, nothing else changed (spec/42_reply.md rule R219). -/
def Obligations.GetReplyFindsNothing : Prop :=
  ∀ (s : State) (c : Nat) (i : Instr),
    (i = .getReply c ∨ (i = .getWriteReply c ∧ (s.ctxAt c).hdr.instruction.getLsbD 5 = true) ∨
      (i = .getReadReply c ∧ (s.ctxAt c).hdr.instruction.getLsbD 5 = false)) →
    c < s.cfg.nCookies → (s.ctxAt c).valid = true → s.pointersInRange = true → s.ft.length = s.cfg.maxRx →
    TxCheckPasses s c → firstMatch (crc8 s.cfg) s c = none →
    exec i s = .next (ended { s with ft := (List.range s.cfg.maxRx).map (entryAfter (crc8 s.cfg) s) } 0x0108)

/-- GET_REPLY, and the facade's two, when the remembered TX slot is still the cookie's: enabled gives
`REPLY_NOT_YET_SENT`, completed with a link error gives the event and `REPLY_NOT_SENT`; no RX slot is looked at and
none classified (spec/42_reply.md rules R212 to R215). -/
def Obligations.GetReplyBeforeTransmission : Prop :=
  ∀ (s : State) (c : Nat) (i : Instr),
    (i = .getReply c ∨ (i = .getWriteReply c ∧ (s.ctxAt c).hdr.instruction.getLsbD 5 = true) ∨
      (i = .getReadReply c ∧ (s.ctxAt c).hdr.instruction.getLsbD 5 = false)) →
    c < s.cfg.nCookies → (s.ctxAt c).valid = true → s.pointersInRange = true → TxSlotOurs s c →
    ((s.txAt (s.ctxAt c).txdesc).en = true → exec i s = .next (ended s 0x010A)) ∧
    ((s.txAt (s.ctxAt c).txdesc).en = false → (s.txAt (s.ctxAt c).txdesc).le = true →
      exec i s = .next (ended
        { s with events := s.events ++ [⟨.txLinkError, ((s.ctxAt c).txdesc : Int)⟩] } 0x0109))

/-- GET_REPLY does not consume the reply: a second one, with nothing in between, gives the same registers and the
same state again, but for the event of a link error, which is emitted once more (spec/42_reply.md rules R215,
R224). -/
def Obligations.GetReplyRepeats : Prop :=
  ∀ (s t : State) (c : Nat), exec (.getReply c) s = .next t →
    exec (.getReply c) t = .next t ∨
    (t.res.result = 0x0109 ∧ exec (.getReply c) t = .next
      { t with events := t.events ++ [⟨.txLinkError, ((s.ctxAt c).txdesc : Int)⟩] })

/-- The facade's get commands on a cookie of the other direction: `REPLY_MISSMATCH` and nothing else
(spec/46_facade.md rules R313, R315). -/
def Obligations.DirectionMismatch : Prop :=
  ∀ (s : State) (c : Nat), c < s.cfg.nCookies → (s.ctxAt c).valid = true →
    ((s.ctxAt c).hdr.instruction.getLsbD 5 = false → exec (.getWriteReply c) s = .next (ended s 0x010B)) ∧
    ((s.ctxAt c).hdr.instruction.getLsbD 5 = true → exec (.getReadReply c) s = .next (ended s 0x010B))

/-! ## The classifier -/

/-- The entry a ready, unclassified slot gets, bit by bit: bit 0 is set, each failure bit is set exactly when its
condition holds, and bits 15:12 are 0; nothing but that entry changes.
`crc` is any function, the parameter `crc8` of spec/00_scope.md rule R7 (spec/43_validator.md rules R243 to R256). -/
def Obligations.VerdictBits : Prop :=
  ∀ (crc : List Byte → Byte) (s : State) (i n a : Nat) (d : RxDesc) (byte : Nat → Byte) (f : Half),
    i < s.ft.length → d = s.rxAt i →
    n = d.len.toNat → a = d.ptr.toNat → (∀ k, byte k = s.arena.read (a + k)) →
    (s.ftAt i).getLsbD 0 = false → d.en = false → ¬(d.ctrl = 0 ∧ d.ptr = 0 ∧ d.len = 0) →
    f = (classify crc i s).ftAt i →
    classify crc i s = { s with ft := s.ft.set i f } ∧
    f.getLsbD 0 = true ∧
    f.getLsbD 1 = d.ctrl.getLsbD 1 ∧
    f.getLsbD 2 = d.ctrl.getLsbD 2 ∧
    (f.getLsbD 3 = true ↔ n ≠ 8 ∧ n < 13) ∧
    (f.getLsbD 4 = true ↔ (n = 8 ∧ crc (s.arena.readBytes a 8) ≠ 0) ∨
      (13 ≤ n ∧ ¬(crc (s.arena.readBytes a 12) = 0 ∧ crc (s.arena.readBytes a n) = 0))) ∧
    (f.getLsbD 5 = true ↔ (n = 8 ∨ 13 ≤ n) ∧ byte 0 ≠ s.regs.srcAddr) ∧
    (f.getLsbD 6 = true ↔ (n = 8 ∨ 13 ≤ n) ∧ byte 1 ≠ 0x01) ∧
    (f.getLsbD 7 = true ↔ (n = 8 ∨ 13 ≤ n) ∧ byte 2 &&& 0xC0 ≠ 0 ∧ byte 3 ≠ 2) ∧
    (f.getLsbD 8 = true ↔ (n = 8 ∨ 13 ≤ n) ∧ byte 2 &&& 0xC0 ≠ 0 ∧ byte 3 = 2) ∧
    (f.getLsbD 9 = true ↔ (n = 8 ∨ 13 ≤ n) ∧ byte 4 ≠ s.regs.destAddr) ∧
    (f.getLsbD 10 = true ↔
      13 ≤ n ∧ (byte 8).toNat * 65536 + (byte 9).toNat * 256 + (byte 10).toNat + 13 ≠ n) ∧
    (f.getLsbD 11 = true ↔ (n = 8 ∧ (byte 2).getLsbD 5 = false) ∨ (13 ≤ n ∧ (byte 2).getLsbD 5 = true)) ∧
    (∀ k, 12 ≤ k → f.getLsbD k = false)

/-- A slot that is not ready is not classified (spec/43_validator.md rule R242). -/
def Obligations.NotReadyIsNotClassified : Prop :=
  ∀ (crc : List Byte → Byte) (s : State) (i : Nat),
    ((s.rxAt i).en = true ∨ ((s.rxAt i).ctrl = 0 ∧ (s.rxAt i).ptr = 0 ∧ (s.rxAt i).len = 0)) → classify crc i s = s

/-- A classified entry keeps its verdict over every step, whatever becomes of the addresses, until a channel reset
clears it (spec/43_validator.md rule R241). -/
def Obligations.ClassifiedOnce : Prop :=
  ∀ (s t : State) (j : Nat), step s = .next t → (s.ftAt j).getLsbD 0 = true →
    t.ftAt j = s.ftAt j ∨
    (t.ftAt j = 0 ∧ s.seq = .idle ∧ ∃ w rest i, s.env.agenda = .write 0x00 w :: rest ∧ decode w = .ok i ∧
      resetsChannel i = true)

/-- Law (c) for the default checksum: a packet that passes, with one byte changed, does not (spec/43_validator.md
rule R261; log 3). -/
def Obligations.DefaultCrcDetectsOneByte : Prop :=
  ∀ (cfg : Build) (p q : List Byte), cfg.crc = .standard → OneByteChanged p q →
    (p.length = 8 → checkCrc (crc8 cfg) p .writeReply = true → checkCrc (crc8 cfg) q .writeReply = false) ∧
    (13 ≤ p.length → checkCrc (crc8 cfg) p .readReply = true → checkCrc (crc8 cfg) q .readReply = false)

/-- For every checksum with the laws, a packet put together with its CRC bytes passes the check of its kind
(spec/43_validator.md rules R258, R259, R261). -/
def Obligations.PacketsWithTheirCrcPass : Prop :=
  ∀ (crc : List Byte → Byte) (h d : List Byte), CrcLaws crc →
    (h.length = 7 → checkCrc crc (h ++ [crc h]) .writeReply = true) ∧
    (h.length = 11 → checkCrc crc (h ++ [crc h] ++ d ++ [crc d]) .readReply = true)

/-- The checksum of every configuration the model accepts, the default one, one of a table or any other, has the laws
(a), (b) and (c) of spec/43_validator.md rule R261 (log 3), and a table of 256 entries is accepted when its checksum
has them. -/
def Obligations.AcceptedChecksumsHaveTheLaws : Prop :=
  ∀ cfg : Build, (cfg.ok = true → CrcLaws (crc8 cfg)) ∧
    ∀ entries, cfg.crc = .table entries → entries.length = 256 → CrcLaws (crc8 cfg) → cfg.crc.ok = true

/-! ## Channel control -/

/-- RESET, and RESET_VIA_COOKIE of an open cookie: with a bound port the link state and the status are read once
each; the events are those of rules R151 to R156 in the order of rule R363; both rings, the failure table, the
indices and the arena pointer are cleared; the result is `LINK_DOWN` exactly when every reserved slot was left enabled
and there was more than one; nothing else changes (spec/40_channel_control.md rules R150 to R157). -/
def Obligations.ResetReportsAndClears : Prop :=
  ∀ (s : State) (i : Instr) (m : Nat),
    (i = .reset ∨ ∃ c, i = .resetViaCookie c ∧ c < s.cfg.nCookies ∧ (s.ctxAt c).valid = true) →
    s.pointersInRange = true → s.regs.rxIndex ≤ s.ft.length → MissedCount s m →
    ∃ link status e code,
      (s.regs.port = 0xFF → e = s.env) ∧
      (s.regs.port ≠ 0xFF → InputsRead 1 1 0 s.env e ∧
        (∀ v ∈ s.env.linkDraws.head?, link = v) ∧ (∀ v ∈ s.env.statusDraws.head?, status = v)) ∧
      exec i s = .next (ended
        { cleared s with events := s.events ++ resetEvents (crc8 s.cfg) s link status m, env := e } code) ∧
      (code = 0x010D ∨ code = 0x0000) ∧
      (code = 0x010D ↔ 1 < s.regs.rxIndex ∧ ∀ j, j < s.regs.rxIndex → (s.rxAt j).en = true)

/-- IS_ACTIVE: no port, link running, link not running, from one reading of the link state; nothing but `RESULT` and
that reading changes (spec/40_channel_control.md rule R158). -/
def Obligations.IsActiveAnswers : Prop :=
  ∀ s : State,
    (s.regs.port = 0xFF → exec .isActive s = .next (ended s 0x0104)) ∧
    (s.regs.port ≠ 0xFF → ∃ link e, InputsRead 1 0 0 s.env e ∧
      (∀ v ∈ s.env.linkDraws.head?, link = v) ∧
      exec .isActive s = .next (ended { s with env := e } (if link = 5 then 0x0000 else 0x010D)))

/-- A port outside the device list, and a port without hardware CRC, are refused with nothing else changed and no
event (spec/40_channel_control.md rules R161, R162). -/
def Obligations.SetPortRefusals : Prop :=
  ∀ (s : State) (port : Int) (i : Instr), (i = .setPort port ∨ i = .setPortAddr port) → port ≠ -1 →
    ((port < 0 ∨ (s.cfg.nPorts : Int) ≤ port) → exec i s = .next (ended s 0x0105)) ∧
    (0 ≤ port → port < (s.cfg.nPorts : Int) → s.cfg.hwCrc.getD port.toNat false = false →
      exec i s = .next (ended s 0x0107))

/-- An accepted SET_PORT or SET_PORT_ADDR: the switch event, the events of the reset of the old binding (if there was
one) and of the new one, each from its own reading of the link state and of the status; the port, the addresses, the
mirror and the port's registers as rule R167 says; the rings cleared; nothing else changes. That the result is always
`OK` is rule R167's own inference (spec/40_channel_control.md rules R160, R165 to R168; log 9). -/
def Obligations.SetPortBinds : Prop :=
  ∀ (s : State) (port : Int) (i : Instr) (dest src : Byte) (m : Nat),
    ((i = .setPort port ∧ dest = s.regs.destAddr ∧ src = s.regs.srcAddr) ∨
      (i = .setPortAddr port ∧ dest = s.args.misc.extractLsb' 16 8 ∧ src = s.args.misc.extractLsb' 24 8)) →
    0 ≤ port → port < (s.cfg.nPorts : Int) → s.cfg.nPorts ≤ 127 → s.cfg.hwCrc.getD port.toNat false = true →
    s.pointersInRange = true → s.regs.rxIndex ≤ s.ft.length → MissedCount s m →
    ∃ link status link' status' e,
      (s.regs.port ≠ 0xFF → InputsRead 2 2 0 s.env e ∧
        (∀ v ∈ s.env.linkDraws.head?, link = v) ∧ (∀ v ∈ s.env.statusDraws.head?, status = v) ∧
        (∀ v ∈ s.env.linkDraws[1]?, link' = v) ∧ (∀ v ∈ s.env.statusDraws[1]?, status' = v)) ∧
      (s.regs.port = 0xFF → InputsRead 1 1 0 s.env e ∧
        (∀ v ∈ s.env.linkDraws.head?, link' = v) ∧ (∀ v ∈ s.env.statusDraws.head?, status' = v)) ∧
      exec i s = .next (ended
        { cleared s with
          regs := { s.regs with
            port := BitVec.ofInt 8 port, destAddr := dest, srcAddr := src
            hkPort := if s.cfg.hasHkMirror then BitVec.ofInt 8 port else s.regs.hkPort
            txIndex := 0, rxIndex := 0, arenaPtr := 0 }
          portReg := s.portReg.set port.toNat ⟨s.cfg.maxPacketLen, src⟩
          events := s.events ++ [⟨.portSwitch, port⟩] ++ resetEvents (crc8 s.cfg) s link status m ++
            resetEvents (crc8 s.cfg)
              { cleared s with regs := { (cleared s).regs with port := BitVec.ofInt 8 port } } link' status' 0
          env := e } 0x0000)

/-- Deactivation by port -1: the switch event, the mirror, the reset of the old binding with its result ignored, and
`PORT` is -1; no port register and no address is written, and no DMA step is enabled afterwards
(spec/40_channel_control.md rule R163). -/
def Obligations.DeactivationUnbinds : Prop :=
  ∀ (s : State) (i : Instr) (m : Nat), (i = .setPort (-1) ∨ i = .setPortAddr (-1)) →
    s.pointersInRange = true → s.regs.rxIndex ≤ s.ft.length → MissedCount s m →
    ∃ link status e,
      (s.regs.port = 0xFF → e = s.env) ∧
      (s.regs.port ≠ 0xFF → InputsRead 1 1 0 s.env e ∧
        (∀ v ∈ s.env.linkDraws.head?, link = v) ∧ (∀ v ∈ s.env.statusDraws.head?, status = v)) ∧
      exec i s = .next (ended
        { cleared s with
          regs := { s.regs with
            port := 0xFF
            hkPort := if s.cfg.hasHkMirror then 0xFF else s.regs.hkPort
            txIndex := 0, rxIndex := 0, arenaPtr := 0 }
          events := s.events ++ [⟨.portSwitch, -1⟩] ++ resetEvents (crc8 s.cfg) s link status m
          env := e } 0x0000) ∧
      ∀ t k, exec i s = .next t → txEnabled t k = false ∧ rxEnabled t k = false

/-! ## Contexts -/

/-- OPEN takes the free context with the lowest index and writes every field of it; nothing else but `RET_VAL` and
`RESULT` changes (spec/45_context.md rules R290 to R292). -/
def Obligations.OpenTakesTheLowest : Prop :=
  ∀ (s : State) (c : Nat), s.ctx.length = s.cfg.nCookies → c < s.cfg.nCookies → (s.ctxAt c).valid = false →
    (∀ j, j < c → (s.ctxAt j).valid = true) →
    exec .openCookie s = .next (ended
      { s with
        ctx := s.ctx.set c
          { valid := true, hdr := ⟨0, 0, 0, 0, 0, 0, 0, 0, 0, 0, 0, 0, 0, 0, 0, 0⟩, addr := s.args.addr
            ext := s.args.misc.extractLsb' 0 8, mask := s.args.misc.extractLsb' 8 8, maxlen := s.args.maxlen
            txdValid := false, txdesc := 0, rxdescIndex := 0 }
        res := { s.res with retVal := BitVec.ofNat 32 c } } 0x0000)

/-- OPEN with every context in use: `NO_FREE_COOKIE` and nothing else (spec/45_context.md rules R290, R291). -/
def Obligations.OpenWithoutAFreeContext : Prop :=
  ∀ s : State, s.ctx.length = s.cfg.nCookies → (∀ j, j < s.cfg.nCookies → (s.ctxAt j).valid = true) →
    exec .openCookie s = .next (ended s 0x0110)

/-- REOPEN of an open cookie: with no port, or with a link that does not run, the code of IS_ACTIVE and no field of
the cookie; else the address and the maximum length and nothing else (spec/45_context.md rules R293, R294). -/
def Obligations.ReOpenRetargets : Prop :=
  ∀ (s : State) (c : Nat), c < s.cfg.nCookies → (s.ctxAt c).valid = true →
    (s.regs.port = 0xFF → exec (.reOpen c) s = .next (ended s 0x0104)) ∧
    (s.regs.port ≠ 0xFF → ∃ link e, InputsRead 1 0 0 s.env e ∧
      (∀ v ∈ s.env.linkDraws.head?, link = v) ∧
      exec (.reOpen c) s = .next (
        if link = 5 then ended
          { s with
            ctx := s.ctx.set c { s.ctxAt c with addr := s.args.addr, maxlen := s.args.maxlen }
            env := e } 0x0000
        else ended { s with env := e } 0x010D))

/-- CLOSE, SET_ADDRESS and GET_ADDRESS of an open cookie: `VALID` cleared, `ADDR` written, `ADDR` returned, and
nothing else (spec/45_context.md rules R295, R297, R298). -/
def Obligations.CloseAndAddressCommands : Prop :=
  ∀ (s : State) (c : Nat), c < s.cfg.nCookies → (s.ctxAt c).valid = true →
    exec (.close c) s = .next (ended { s with ctx := s.ctx.set c { s.ctxAt c with valid := false } } 0x0000) ∧
    exec (.setAddress c) s =
      .next (ended { s with ctx := s.ctx.set c { s.ctxAt c with addr := s.args.addr } } 0x0000) ∧
    exec (.getAddress c) s = .next (ended { s with res := { s.res with retVal := (s.ctxAt c).addr } } 0x0000)

/-! ## Polls -/

/-- A poll of a blocking command, which the environment offers, or which is made because it offers nothing or because the
host's register access waits (rule R281; log 13), does what GET_REPLY does. Any code but the two of rule R285 ends the command with
that code. After those two the timer is read: at or past `start + timeout` the command ends with `REPLY_TIMEOUT`,
before it the command goes on waiting with `RESULT` as it was (spec/44_blocking.md rules R280, R283, R285; that
`RESULT` waits is deduced, log 20). -/
def Obligations.PollEndsOrWaits : Prop :=
  ∀ (s s' : State) (c start timeout : Nat), s.cfg.ok = true → s.seq = .blocking c start timeout →
    ((s.env.agenda = [] ∧ s' = s) ∨ (∃ rest, s.env.agenda = .poll :: rest ∧ s' = s.withAgenda rest) ∨
      (∃ offset v rest, s.env.agenda = .write offset v :: rest ∧ s' = s) ∨
      (∃ offset rest, s.env.agenda = .read offset :: rest ∧ s' = s)) →
    s.pointersInRange = true →
    ∃ u, exec (.getReply c) s' = .next u ∧
      (u.res.result ≠ 0x010A ∧ u.res.result ≠ 0x0108 → step s = .next { u with seq := .idle }) ∧
      (u.res.result = 0x010A ∨ u.res.result = 0x0108 →
        ∃ e, InputsRead 0 0 1 s'.env e ∧ (∀ d ∈ s.env.timerDraws.head?, e.timer = s.env.timer + d) ∧
          step s = .next (
            if start + timeout ≤ e.timer then ended { u with seq := .idle, env := e } 0x010C
            else { u with env := e, res := { u.res with result := s.res.result } }))

/-! ## The DMA agent -/

/-- `DMA_TX t`: the packet of rule R334 is appended to the wire and `EN` cleared; nothing else changes. The payload
bytes are those of `HOSTMEM`; of those past `2^32` nothing is said, the spec leaves them open (spec/47_dma_agent.md
rules R333, R334; spec/20_memory.md rule R79; log 11). -/
def Obligations.DmaTransmits : Prop :=
  ∀ (s : State) (t : Nat) (rest : List Input) (d : TxDesc) (h : List Byte), s.cfg.ok = true →
    s.env.agenda = .dmaTx t :: rest → d = s.txAt t → s.regs.port ≠ 0xFF → d.ctrl.getLsbD 0 = true →
    s.pointersInRange = true → h = (s.ctxAt (d.hptr.toNat - 1)).hdr.bytes.take 15 →
    ∃ payload : List Byte, payload.length = d.len.toNat ∧
      (∀ k, k < d.len.toNat → d.dptr.toNat + k < 2 ^ 32 → payload.getD k 0 = s.hostMem.read (d.dptr.toNat + k)) ∧
      step s = .next
        { s with
          wire := s.wire ++ [h ++ (if d.ctrl.getLsbD 2 then [crc8 s.cfg h] else []) ++
            (if d.ctrl.getLsbD 3 then payload ++ [crc8 s.cfg payload] else [])]
          tx := s.tx.set t { d with ctrl := d.ctrl &&& 0xFFFFFFFE }
          env := { s.env with agenda := rest, freeCount := s.env.freeCount + 1 } }

/-- `DMA_TX_ERR t`: `LE` set, `EN` cleared, nothing on the wire, nothing else changed (spec/47_dma_agent.md rule
R335). -/
def Obligations.DmaTransmissionFails : Prop :=
  ∀ (s : State) (t : Nat) (rest : List Input) (d : TxDesc), s.cfg.ok = true → s.env.agenda = .dmaTxErr t :: rest →
    d = s.txAt t → s.regs.port ≠ 0xFF → d.ctrl.getLsbD 0 = true →
    step s = .next
      { s with
        tx := s.tx.set t { d with ctrl := (d.ctrl ||| 0x00000002) &&& 0xFFFFFFFE }
        env := { s.env with agenda := rest } }

/-- `DMA_RX i pkt eep`: the first bytes of the packet, up to the slot's capacity, stand in the slot and no other byte
of the arena changes; `LEN` is how many, `TRUNC` says whether the packet was longer, `EEP` is as given, `EN` is
cleared; nothing else changes (spec/47_dma_agent.md rules R336 to R338). -/
def Obligations.DmaReceives : Prop :=
  ∀ (s : State) (i n : Nat) (pkt : List Byte) (eep : Bool) (rest : List Input) (d : RxDesc), s.cfg.ok = true →
    s.env.agenda = .dmaRx i pkt eep :: rest → d = s.rxAt i → s.regs.port ≠ 0xFF → d.ctrl.getLsbD 0 = true →
    s.pointersInRange = true → s.arena.wf = true → n = min pkt.length d.len.toNat →
    ∃ arena : Mem, arena.wf = true ∧
      (∀ a, arena.read a =
        if d.ptr.toNat ≤ a ∧ a < d.ptr.toNat + n then pkt.getD (a - d.ptr.toNat) 0 else s.arena.read a) ∧
      step s = .next
        { s with
          arena := arena
          rx := s.rx.set i
            { ctrl := (d.ctrl &&& 0xFFFFFFF8) ||| (if eep then 0x00000002 else 0) |||
                (if d.len.toNat < pkt.length then 0x00000004 else 0)
              ptr := d.ptr, len := BitVec.ofNat 32 n }
          env := { s.env with agenda := rest } }

/-- What the agent never does: it sets no `EN`, touches no descriptor that is not enabled, completes none twice (its
`EN` is 0 afterwards), writes no failure entry,
cookie, host byte or register, emits no event, and writes no arena byte outside the slot it completes
(spec/47_dma_agent.md rule R340). -/
def Obligations.DmaAgentNever : Prop :=
  ∀ (s t : State) (a : Input) (rest : List Input), s.arena.wf = true → s.env.agenda = a :: rest →
    ((∃ k, a = .dmaTx k) ∨ (∃ k, a = .dmaTxErr k) ∨ ∃ k pkt eep, a = .dmaRx k pkt eep) → step s = .next t →
    t.ft = s.ft ∧ t.ctx = s.ctx ∧ t.hostMem = s.hostMem ∧ t.regs = s.regs ∧ t.args = s.args ∧ t.res = s.res ∧
    t.portReg = s.portReg ∧ t.events = s.events ∧ t.cfg = s.cfg ∧ t.seq = s.seq ∧
    (∀ j, (s.txAt j).en = false → t.txAt j = s.txAt j) ∧ (∀ j, (s.rxAt j).en = false → t.rxAt j = s.rxAt j) ∧
    (∀ j, (t.txAt j).en = true → t.txAt j = s.txAt j) ∧ (∀ j, (t.rxAt j).en = true → t.rxAt j = s.rxAt j) ∧
    (∀ k, a = .dmaTx k ∨ a = .dmaTxErr k → (s.txAt k).en = true ∧ (t.txAt k).en = false) ∧
    (∀ k pkt eep, a = .dmaRx k pkt eep → (s.rxAt k).en = true ∧ (t.rxAt k).en = false) ∧
    (∀ x, t.arena.read x ≠ s.arena.read x → ∃ k pkt eep, a = .dmaRx k pkt eep ∧ (s.rxAt k).en = true ∧
      (s.rxAt k).ptr.toNat ≤ x ∧ x < (s.rxAt k).ptr.toNat + (s.rxAt k).len.toNat)

/-- A DMA step on a descriptor that is not enabled, or with no port bound, does not exist: the model refuses it
(spec/47_dma_agent.md rule R331; the refusal is the model's, log 14). -/
def Obligations.DmaNeedsAnEnabledDescriptor : Prop :=
  ∀ (s : State) (k : Nat) (pkt : List Byte) (eep : Bool) (rest : List Input), s.cfg.ok = true →
    ((s.env.agenda = .dmaTx k :: rest ∨ s.env.agenda = .dmaTxErr k :: rest) ∧
        (s.regs.port = 0xFF ∨ (s.txAt k).en = false)) ∨
      (s.env.agenda = .dmaRx k pkt eep :: rest ∧ (s.regs.port = 0xFF ∨ (s.rxAt k).en = false)) →
    step s = .refused .dmaNotEnabled

/-! ## The command port -/

/-- `EVENT_POP` returns the oldest event as a word and removes it, or 0 when there is none; the identifiers are those
of spec/60_exceptions.md rule R362; `EVENT_COUNT` reads how many wait, saturated; nothing else changes
(spec/60_exceptions.md rule R361). -/
def Obligations.EventRegisters : Prop :=
  ∀ (s : State) (rest : List Input), s.cfg.ok = true → s.seq = .idle →
    (s.env.agenda = .read 0x30 :: rest → s.events = [] →
      step s = .next { s with env := { s.env with agenda := rest, readData := 0 } }) ∧
    (∀ (e : Event) (es : List Event) (id : Byte), s.env.agenda = .read 0x30 :: rest → s.events = e :: es →
      (e.kind, id) ∈
        ([(.linkDown, 1), (.spwCredit, 2), (.spwEscape, 3), (.spwDisconnect, 4), (.spwParity, 5), (.spwWriteSync, 6),
          (.spwInvalidAddress, 7), (.spwEarlyEop, 8), (.dmaError, 9), (.missedReplies, 10), (.rxFailure .eep, 11),
          (.rxFailure .trunc, 12), (.rxFailure .len, 13), (.rxFailure .crc, 14), (.rxFailure .destAddr, 15),
          (.rxFailure .protocol, 16), (.rxFailure .instrType, 17), (.rxFailure .instr, 18), (.rxFailure .srcAddr, 19),
          (.rxFailure .lenMismatch, 20), (.rxFailure .wrongReply, 21), (.portSwitch, 22), (.noRxDescriptors, 23),
          (.txLinkError, 24)] : List (EventKind × Byte)) →
      step s = .next
        { s with
          events := es
          env := { s.env with agenda := rest, readData := BitVec.ofInt 24 e.param ++ id } }) ∧
    (s.env.agenda = .read 0x34 :: rest →
      step s = .next
        { s with
          env := { s.env with
            agenda := rest
            readData := BitVec.ofNat 32 (if s.events.length < 2 ^ 32 then s.events.length else 2 ^ 32 - 1) } })

/-- What the other readable registers of the port read, and that a read of them changes nothing else; offsets not
listed read 0. That an offset which is no multiple of 4 counts as not listed is the model's choice (log 19)
(spec/10_state.md rule R32, spec/20_memory.md rule R76). -/
def Obligations.PortReads : Prop :=
  ∀ (s : State) (offset v : Word) (rest : List Input), s.cfg.ok = true → s.seq = .idle →
    s.env.agenda = .read offset :: rest →
    ((offset, v) ∈
        [((0x04 : Word), s.args.ptr), (0x08, s.args.len), (0x0C, s.args.timeout), (0x10, s.args.addr),
         (0x14, s.args.misc), (0x18, s.args.maxlen), (0x20, s.res.result.setWidth 32), (0x24, s.res.replyPtr),
         (0x28, s.res.replyLen), (0x2C, s.res.retVal), (0x40, BitVec.ofInt 32 s.regs.port.toInt),
         (0x44, BitVec.ofNat 32 s.regs.txIndex), (0x48, BitVec.ofNat 32 s.regs.rxIndex),
         (0x4C, BitVec.ofNat 32 s.regs.arenaPtr), (0x50, s.regs.tidNext.setWidth 32),
         (0x54, BitVec.ofNat 32 (s.regs.srcAddr.toNat * 256 + s.regs.destAddr.toNat)),
         (0x58, if s.cfg.hasHkMirror then BitVec.ofInt 32 s.regs.hkPort.toInt else 0xFFFFFFFF)] ∨
      (v = 0 ∧ offset ∉
        ([0x00, 0x04, 0x08, 0x0C, 0x10, 0x14, 0x18, 0x20, 0x24, 0x28, 0x2C, 0x30, 0x34, 0x40, 0x44, 0x48, 0x4C, 0x50,
          0x54, 0x58] : List Word))) →
    step s = .next { s with env := { s.env with agenda := rest, readData := v } }

/-- A read of the write-only register `CMD` gives some word and changes nothing, and a second read right after it gives
the same word (spec/20_memory.md rule R76). The spec states no value for the word (spec/10_state.md rule R32): that there
is one, free, is the model's choice (log 17). -/
def Obligations.CmdReadIsFree : Prop :=
  ∀ (s : State) (rest : List Input), s.cfg.ok = true → s.seq = .idle → s.env.agenda = .read 0x00 :: rest →
    ∃ v, step s = .next { s with env := { s.env with agenda := rest, readData := v } } ∧
      ∀ rest', rest = .read 0x00 :: rest' →
        Host.Core.run Sys2Proof.core 2 s = .next { s with env := { s.env with agenda := rest', readData := v } }

/-- A write of an operand register stores the word and does nothing else; a write of any other offset but `CMD`
changes nothing (spec/10_state.md rule R32, spec/20_memory.md rule R76; for the read-only registers deduced,
log 16). -/
def Obligations.PortWrites : Prop :=
  ∀ (s : State) (offset v : Word) (args : Args) (rest : List Input), s.cfg.ok = true → s.seq = .idle →
    s.env.agenda = .write offset v :: rest →
    ((offset, args) ∈
        [((0x04 : Word), { s.args with ptr := v }), (0x08, { s.args with len := v }),
         (0x0C, { s.args with timeout := v }), (0x10, { s.args with addr := v }), (0x14, { s.args with misc := v }),
         (0x18, { s.args with maxlen := v })] ∨
      (args = s.args ∧ offset ∉ ([0x00, 0x04, 0x08, 0x0C, 0x10, 0x14, 0x18] : List Word))) →
    step s = .next { s with args := args, env := { s.env with agenda := rest } }

/-- The host changes one byte of its own memory, at any moment and whatever the sequencer does, and nothing else
(spec/10_state.md rule R44). -/
def Obligations.HostMemoryChanges : Prop :=
  ∀ (s : State) (a : Word) (b : Byte) (rest : List Input), s.cfg.ok = true → s.hostMem.wf = true →
    s.env.agenda = .hostMem a b :: rest →
    ∃ m : Mem, m.wf = true ∧ (∀ x, m.read x = if x = a.toNat then b else s.hostMem.read x) ∧
      step s = .next { s with hostMem := m, env := { s.env with agenda := rest } }

/-! ## Round trips -/

/-- A write, end to end (spec/41_send.md rule R202): the host sends, the engine transmits, a well-formed write reply
arrives in the reserved slot, and GET_REPLY answers with the reply's status and no payload. -/
def Obligations.WriteRoundTrip : Prop :=
  ∀ (s : State) (c : Nat) (instruction ins status : Byte) (t : Nat), RunInv s → s.seq = .idle →
    SendAccepts c instruction s.args.len t s → ins = instruction ||| (s.ctxAt c).mask → ins.getLsbD 5 = true →
    s.env.agenda =
      [.write 0x00 (encode (.sendCommand c instruction)), .dmaTx t,
       .dmaRx s.regs.rxIndex (writeReply (crc8 s.cfg) s.regs.srcAddr s.regs.destAddr ins status s.regs.tidNext) false,
       .write 0x00 (encode (.getReply c))] →
    ∃ u : State, Host.Core.run Sys2Proof.core 4 s = .next u ∧ u.res.result = statusCode status ∧
      u.res.replyPtr = s.res.replyPtr ∧ u.res.replyLen = s.res.replyLen ∧ u.ftAt s.regs.rxIndex = 0x0001 ∧
      u.env.agenda = []

/-- A read, end to end (spec/41_send.md rule R202): GET_REPLY answers with the reply's status and a payload of the
requested length, which stands in the arena at `REPLY_PTR`. -/
def Obligations.ReadRoundTrip : Prop :=
  ∀ (s : State) (c : Nat) (instruction ins status : Byte) (t : Nat) (data : List Byte), RunInv s →
    s.seq = .idle → SendAccepts c instruction s.args.len t s → ins = instruction ||| (s.ctxAt c).mask →
    ins.getLsbD 5 = false → data.length = s.args.len.toNat →
    s.env.agenda =
      [.write 0x00 (encode (.sendCommand c instruction)), .dmaTx t,
       .dmaRx s.regs.rxIndex (readReply (crc8 s.cfg) s.regs.srcAddr s.regs.destAddr ins status s.regs.tidNext data) false,
       .write 0x00 (encode (.getReply c))] →
    ∃ u : State, Host.Core.run Sys2Proof.core 4 s = .next u ∧ u.res.result = statusCode status ∧
      u.res.replyPtr.toNat = s.regs.arenaPtr + 12 ∧ u.res.replyLen = s.args.len ∧
      u.arena.readBytes u.res.replyPtr.toNat u.res.replyLen.toNat = data ∧ u.ftAt s.regs.rxIndex = 0x0001 ∧
      u.env.agenda = []
end

