-- ==== Sys2Proof/Laws/State.lean ====
section
/-! SUPPORT. Every field of the state after every named update, so that no later proof unfolds a record update. -/

namespace Sys2Proof.Machine

open Sys2Proof

/-! ## setTx -/

@[simp] theorem State.setTx_cfg (s : State) (t : Nat) (d : TxDesc) : (s.setTx t d).cfg = s.cfg := rfl
@[simp] theorem State.setTx_regs (s : State) (t : Nat) (d : TxDesc) : (s.setTx t d).regs = s.regs := rfl
@[simp] theorem State.setTx_args (s : State) (t : Nat) (d : TxDesc) : (s.setTx t d).args = s.args := rfl
@[simp] theorem State.setTx_res (s : State) (t : Nat) (d : TxDesc) : (s.setTx t d).res = s.res := rfl
@[simp] theorem State.setTx_tx (s : State) (t : Nat) (d : TxDesc) : (s.setTx t d).tx = s.tx.set t d := rfl
@[simp] theorem State.setTx_rx (s : State) (t : Nat) (d : TxDesc) : (s.setTx t d).rx = s.rx := rfl
@[simp] theorem State.setTx_ft (s : State) (t : Nat) (d : TxDesc) : (s.setTx t d).ft = s.ft := rfl
@[simp] theorem State.setTx_arena (s : State) (t : Nat) (d : TxDesc) : (s.setTx t d).arena = s.arena := rfl
@[simp] theorem State.setTx_ctx (s : State) (t : Nat) (d : TxDesc) : (s.setTx t d).ctx = s.ctx := rfl
@[simp] theorem State.setTx_hostMem (s : State) (t : Nat) (d : TxDesc) : (s.setTx t d).hostMem = s.hostMem := rfl
@[simp] theorem State.setTx_portReg (s : State) (t : Nat) (d : TxDesc) : (s.setTx t d).portReg = s.portReg := rfl
@[simp] theorem State.setTx_events (s : State) (t : Nat) (d : TxDesc) : (s.setTx t d).events = s.events := rfl
@[simp] theorem State.setTx_wire (s : State) (t : Nat) (d : TxDesc) : (s.setTx t d).wire = s.wire := rfl
@[simp] theorem State.setTx_seq (s : State) (t : Nat) (d : TxDesc) : (s.setTx t d).seq = s.seq := rfl
@[simp] theorem State.setTx_env (s : State) (t : Nat) (d : TxDesc) : (s.setTx t d).env = s.env := rfl

/-! ## setRx -/

@[simp] theorem State.setRx_cfg (s : State) (i : Nat) (d : RxDesc) : (s.setRx i d).cfg = s.cfg := rfl
@[simp] theorem State.setRx_regs (s : State) (i : Nat) (d : RxDesc) : (s.setRx i d).regs = s.regs := rfl
@[simp] theorem State.setRx_args (s : State) (i : Nat) (d : RxDesc) : (s.setRx i d).args = s.args := rfl
@[simp] theorem State.setRx_res (s : State) (i : Nat) (d : RxDesc) : (s.setRx i d).res = s.res := rfl
@[simp] theorem State.setRx_tx (s : State) (i : Nat) (d : RxDesc) : (s.setRx i d).tx = s.tx := rfl
@[simp] theorem State.setRx_rx (s : State) (i : Nat) (d : RxDesc) : (s.setRx i d).rx = s.rx.set i d := rfl
@[simp] theorem State.setRx_ft (s : State) (i : Nat) (d : RxDesc) : (s.setRx i d).ft = s.ft := rfl
@[simp] theorem State.setRx_arena (s : State) (i : Nat) (d : RxDesc) : (s.setRx i d).arena = s.arena := rfl
@[simp] theorem State.setRx_ctx (s : State) (i : Nat) (d : RxDesc) : (s.setRx i d).ctx = s.ctx := rfl
@[simp] theorem State.setRx_hostMem (s : State) (i : Nat) (d : RxDesc) : (s.setRx i d).hostMem = s.hostMem := rfl
@[simp] theorem State.setRx_portReg (s : State) (i : Nat) (d : RxDesc) : (s.setRx i d).portReg = s.portReg := rfl
@[simp] theorem State.setRx_events (s : State) (i : Nat) (d : RxDesc) : (s.setRx i d).events = s.events := rfl
@[simp] theorem State.setRx_wire (s : State) (i : Nat) (d : RxDesc) : (s.setRx i d).wire = s.wire := rfl
@[simp] theorem State.setRx_seq (s : State) (i : Nat) (d : RxDesc) : (s.setRx i d).seq = s.seq := rfl
@[simp] theorem State.setRx_env (s : State) (i : Nat) (d : RxDesc) : (s.setRx i d).env = s.env := rfl

/-! ## setFt -/

@[simp] theorem State.setFt_cfg (s : State) (i : Nat) (f : Half) : (s.setFt i f).cfg = s.cfg := rfl
@[simp] theorem State.setFt_regs (s : State) (i : Nat) (f : Half) : (s.setFt i f).regs = s.regs := rfl
@[simp] theorem State.setFt_args (s : State) (i : Nat) (f : Half) : (s.setFt i f).args = s.args := rfl
@[simp] theorem State.setFt_res (s : State) (i : Nat) (f : Half) : (s.setFt i f).res = s.res := rfl
@[simp] theorem State.setFt_tx (s : State) (i : Nat) (f : Half) : (s.setFt i f).tx = s.tx := rfl
@[simp] theorem State.setFt_rx (s : State) (i : Nat) (f : Half) : (s.setFt i f).rx = s.rx := rfl
@[simp] theorem State.setFt_ft (s : State) (i : Nat) (f : Half) : (s.setFt i f).ft = s.ft.set i f := rfl
@[simp] theorem State.setFt_arena (s : State) (i : Nat) (f : Half) : (s.setFt i f).arena = s.arena := rfl
@[simp] theorem State.setFt_ctx (s : State) (i : Nat) (f : Half) : (s.setFt i f).ctx = s.ctx := rfl
@[simp] theorem State.setFt_hostMem (s : State) (i : Nat) (f : Half) : (s.setFt i f).hostMem = s.hostMem := rfl
@[simp] theorem State.setFt_portReg (s : State) (i : Nat) (f : Half) : (s.setFt i f).portReg = s.portReg := rfl
@[simp] theorem State.setFt_events (s : State) (i : Nat) (f : Half) : (s.setFt i f).events = s.events := rfl
@[simp] theorem State.setFt_wire (s : State) (i : Nat) (f : Half) : (s.setFt i f).wire = s.wire := rfl
@[simp] theorem State.setFt_seq (s : State) (i : Nat) (f : Half) : (s.setFt i f).seq = s.seq := rfl
@[simp] theorem State.setFt_env (s : State) (i : Nat) (f : Half) : (s.setFt i f).env = s.env := rfl

/-! ## setCtx -/

@[simp] theorem State.setCtx_cfg (s : State) (c : Nat) (k : Ctx) : (s.setCtx c k).cfg = s.cfg := rfl
@[simp] theorem State.setCtx_regs (s : State) (c : Nat) (k : Ctx) : (s.setCtx c k).regs = s.regs := rfl
@[simp] theorem State.setCtx_args (s : State) (c : Nat) (k : Ctx) : (s.setCtx c k).args = s.args := rfl
@[simp] theorem State.setCtx_res (s : State) (c : Nat) (k : Ctx) : (s.setCtx c k).res = s.res := rfl
@[simp] theorem State.setCtx_tx (s : State) (c : Nat) (k : Ctx) : (s.setCtx c k).tx = s.tx := rfl
@[simp] theorem State.setCtx_rx (s : State) (c : Nat) (k : Ctx) : (s.setCtx c k).rx = s.rx := rfl
@[simp] theorem State.setCtx_ft (s : State) (c : Nat) (k : Ctx) : (s.setCtx c k).ft = s.ft := rfl
@[simp] theorem State.setCtx_arena (s : State) (c : Nat) (k : Ctx) : (s.setCtx c k).arena = s.arena := rfl
@[simp] theorem State.setCtx_ctx (s : State) (c : Nat) (k : Ctx) : (s.setCtx c k).ctx = s.ctx.set c k := rfl
@[simp] theorem State.setCtx_hostMem (s : State) (c : Nat) (k : Ctx) : (s.setCtx c k).hostMem = s.hostMem := rfl
@[simp] theorem State.setCtx_portReg (s : State) (c : Nat) (k : Ctx) : (s.setCtx c k).portReg = s.portReg := rfl
@[simp] theorem State.setCtx_events (s : State) (c : Nat) (k : Ctx) : (s.setCtx c k).events = s.events := rfl
@[simp] theorem State.setCtx_wire (s : State) (c : Nat) (k : Ctx) : (s.setCtx c k).wire = s.wire := rfl
@[simp] theorem State.setCtx_seq (s : State) (c : Nat) (k : Ctx) : (s.setCtx c k).seq = s.seq := rfl
@[simp] theorem State.setCtx_env (s : State) (c : Nat) (k : Ctx) : (s.setCtx c k).env = s.env := rfl

/-! ## setPortReg -/

@[simp] theorem State.setPortReg_cfg (s : State) (p : Nat) (r : PortHw) : (s.setPortReg p r).cfg = s.cfg := rfl
@[simp] theorem State.setPortReg_regs (s : State) (p : Nat) (r : PortHw) : (s.setPortReg p r).regs = s.regs := rfl
@[simp] theorem State.setPortReg_args (s : State) (p : Nat) (r : PortHw) : (s.setPortReg p r).args = s.args := rfl
@[simp] theorem State.setPortReg_res (s : State) (p : Nat) (r : PortHw) : (s.setPortReg p r).res = s.res := rfl
@[simp] theorem State.setPortReg_tx (s : State) (p : Nat) (r : PortHw) : (s.setPortReg p r).tx = s.tx := rfl
@[simp] theorem State.setPortReg_rx (s : State) (p : Nat) (r : PortHw) : (s.setPortReg p r).rx = s.rx := rfl
@[simp] theorem State.setPortReg_ft (s : State) (p : Nat) (r : PortHw) : (s.setPortReg p r).ft = s.ft := rfl
@[simp] theorem State.setPortReg_arena (s : State) (p : Nat) (r : PortHw) : (s.setPortReg p r).arena = s.arena := rfl
@[simp] theorem State.setPortReg_ctx (s : State) (p : Nat) (r : PortHw) : (s.setPortReg p r).ctx = s.ctx := rfl
@[simp] theorem State.setPortReg_hostMem (s : State) (p : Nat) (r : PortHw) : (s.setPortReg p r).hostMem = s.hostMem := rfl
@[simp] theorem State.setPortReg_portReg (s : State) (p : Nat) (r : PortHw) : (s.setPortReg p r).portReg = s.portReg.set p r := rfl
@[simp] theorem State.setPortReg_events (s : State) (p : Nat) (r : PortHw) : (s.setPortReg p r).events = s.events := rfl
@[simp] theorem State.setPortReg_wire (s : State) (p : Nat) (r : PortHw) : (s.setPortReg p r).wire = s.wire := rfl
@[simp] theorem State.setPortReg_seq (s : State) (p : Nat) (r : PortHw) : (s.setPortReg p r).seq = s.seq := rfl
@[simp] theorem State.setPortReg_env (s : State) (p : Nat) (r : PortHw) : (s.setPortReg p r).env = s.env := rfl

/-! ## setRegs -/

@[simp] theorem State.setRegs_cfg (s : State) (r : Regs) : (s.setRegs r).cfg = s.cfg := rfl
@[simp] theorem State.setRegs_regs (s : State) (r : Regs) : (s.setRegs r).regs = r := rfl
@[simp] theorem State.setRegs_args (s : State) (r : Regs) : (s.setRegs r).args = s.args := rfl
@[simp] theorem State.setRegs_res (s : State) (r : Regs) : (s.setRegs r).res = s.res := rfl
@[simp] theorem State.setRegs_tx (s : State) (r : Regs) : (s.setRegs r).tx = s.tx := rfl
@[simp] theorem State.setRegs_rx (s : State) (r : Regs) : (s.setRegs r).rx = s.rx := rfl
@[simp] theorem State.setRegs_ft (s : State) (r : Regs) : (s.setRegs r).ft = s.ft := rfl
@[simp] theorem State.setRegs_arena (s : State) (r : Regs) : (s.setRegs r).arena = s.arena := rfl
@[simp] theorem State.setRegs_ctx (s : State) (r : Regs) : (s.setRegs r).ctx = s.ctx := rfl
@[simp] theorem State.setRegs_hostMem (s : State) (r : Regs) : (s.setRegs r).hostMem = s.hostMem := rfl
@[simp] theorem State.setRegs_portReg (s : State) (r : Regs) : (s.setRegs r).portReg = s.portReg := rfl
@[simp] theorem State.setRegs_events (s : State) (r : Regs) : (s.setRegs r).events = s.events := rfl
@[simp] theorem State.setRegs_wire (s : State) (r : Regs) : (s.setRegs r).wire = s.wire := rfl
@[simp] theorem State.setRegs_seq (s : State) (r : Regs) : (s.setRegs r).seq = s.seq := rfl
@[simp] theorem State.setRegs_env (s : State) (r : Regs) : (s.setRegs r).env = s.env := rfl

/-! ## setArgs -/

@[simp] theorem State.setArgs_cfg (s : State) (a : Args) : (s.setArgs a).cfg = s.cfg := rfl
@[simp] theorem State.setArgs_regs (s : State) (a : Args) : (s.setArgs a).regs = s.regs := rfl
@[simp] theorem State.setArgs_args (s : State) (a : Args) : (s.setArgs a).args = a := rfl
@[simp] theorem State.setArgs_res (s : State) (a : Args) : (s.setArgs a).res = s.res := rfl
@[simp] theorem State.setArgs_tx (s : State) (a : Args) : (s.setArgs a).tx = s.tx := rfl
@[simp] theorem State.setArgs_rx (s : State) (a : Args) : (s.setArgs a).rx = s.rx := rfl
@[simp] theorem State.setArgs_ft (s : State) (a : Args) : (s.setArgs a).ft = s.ft := rfl
@[simp] theorem State.setArgs_arena (s : State) (a : Args) : (s.setArgs a).arena = s.arena := rfl
@[simp] theorem State.setArgs_ctx (s : State) (a : Args) : (s.setArgs a).ctx = s.ctx := rfl
@[simp] theorem State.setArgs_hostMem (s : State) (a : Args) : (s.setArgs a).hostMem = s.hostMem := rfl
@[simp] theorem State.setArgs_portReg (s : State) (a : Args) : (s.setArgs a).portReg = s.portReg := rfl
@[simp] theorem State.setArgs_events (s : State) (a : Args) : (s.setArgs a).events = s.events := rfl
@[simp] theorem State.setArgs_wire (s : State) (a : Args) : (s.setArgs a).wire = s.wire := rfl
@[simp] theorem State.setArgs_seq (s : State) (a : Args) : (s.setArgs a).seq = s.seq := rfl
@[simp] theorem State.setArgs_env (s : State) (a : Args) : (s.setArgs a).env = s.env := rfl

/-! ## setArena -/

@[simp] theorem State.setArena_cfg (s : State) (m : Mem) : (s.setArena m).cfg = s.cfg := rfl
@[simp] theorem State.setArena_regs (s : State) (m : Mem) : (s.setArena m).regs = s.regs := rfl
@[simp] theorem State.setArena_args (s : State) (m : Mem) : (s.setArena m).args = s.args := rfl
@[simp] theorem State.setArena_res (s : State) (m : Mem) : (s.setArena m).res = s.res := rfl
@[simp] theorem State.setArena_tx (s : State) (m : Mem) : (s.setArena m).tx = s.tx := rfl
@[simp] theorem State.setArena_rx (s : State) (m : Mem) : (s.setArena m).rx = s.rx := rfl
@[simp] theorem State.setArena_ft (s : State) (m : Mem) : (s.setArena m).ft = s.ft := rfl
@[simp] theorem State.setArena_arena (s : State) (m : Mem) : (s.setArena m).arena = m := rfl
@[simp] theorem State.setArena_ctx (s : State) (m : Mem) : (s.setArena m).ctx = s.ctx := rfl
@[simp] theorem State.setArena_hostMem (s : State) (m : Mem) : (s.setArena m).hostMem = s.hostMem := rfl
@[simp] theorem State.setArena_portReg (s : State) (m : Mem) : (s.setArena m).portReg = s.portReg := rfl
@[simp] theorem State.setArena_events (s : State) (m : Mem) : (s.setArena m).events = s.events := rfl
@[simp] theorem State.setArena_wire (s : State) (m : Mem) : (s.setArena m).wire = s.wire := rfl
@[simp] theorem State.setArena_seq (s : State) (m : Mem) : (s.setArena m).seq = s.seq := rfl
@[simp] theorem State.setArena_env (s : State) (m : Mem) : (s.setArena m).env = s.env := rfl

/-! ## setEnv -/

@[simp] theorem State.setEnv_cfg (s : State) (e : Env) : (s.setEnv e).cfg = s.cfg := rfl
@[simp] theorem State.setEnv_regs (s : State) (e : Env) : (s.setEnv e).regs = s.regs := rfl
@[simp] theorem State.setEnv_args (s : State) (e : Env) : (s.setEnv e).args = s.args := rfl
@[simp] theorem State.setEnv_res (s : State) (e : Env) : (s.setEnv e).res = s.res := rfl
@[simp] theorem State.setEnv_tx (s : State) (e : Env) : (s.setEnv e).tx = s.tx := rfl
@[simp] theorem State.setEnv_rx (s : State) (e : Env) : (s.setEnv e).rx = s.rx := rfl
@[simp] theorem State.setEnv_ft (s : State) (e : Env) : (s.setEnv e).ft = s.ft := rfl
@[simp] theorem State.setEnv_arena (s : State) (e : Env) : (s.setEnv e).arena = s.arena := rfl
@[simp] theorem State.setEnv_ctx (s : State) (e : Env) : (s.setEnv e).ctx = s.ctx := rfl
@[simp] theorem State.setEnv_hostMem (s : State) (e : Env) : (s.setEnv e).hostMem = s.hostMem := rfl
@[simp] theorem State.setEnv_portReg (s : State) (e : Env) : (s.setEnv e).portReg = s.portReg := rfl
@[simp] theorem State.setEnv_events (s : State) (e : Env) : (s.setEnv e).events = s.events := rfl
@[simp] theorem State.setEnv_wire (s : State) (e : Env) : (s.setEnv e).wire = s.wire := rfl
@[simp] theorem State.setEnv_seq (s : State) (e : Env) : (s.setEnv e).seq = s.seq := rfl
@[simp] theorem State.setEnv_env (s : State) (e : Env) : (s.setEnv e).env = e := rfl

/-! ## setSeq -/

@[simp] theorem State.setSeq_cfg (s : State) (q : Sequencer) : (s.setSeq q).cfg = s.cfg := rfl
@[simp] theorem State.setSeq_regs (s : State) (q : Sequencer) : (s.setSeq q).regs = s.regs := rfl
@[simp] theorem State.setSeq_args (s : State) (q : Sequencer) : (s.setSeq q).args = s.args := rfl
@[simp] theorem State.setSeq_res (s : State) (q : Sequencer) : (s.setSeq q).res = s.res := rfl
@[simp] theorem State.setSeq_tx (s : State) (q : Sequencer) : (s.setSeq q).tx = s.tx := rfl
@[simp] theorem State.setSeq_rx (s : State) (q : Sequencer) : (s.setSeq q).rx = s.rx := rfl
@[simp] theorem State.setSeq_ft (s : State) (q : Sequencer) : (s.setSeq q).ft = s.ft := rfl
@[simp] theorem State.setSeq_arena (s : State) (q : Sequencer) : (s.setSeq q).arena = s.arena := rfl
@[simp] theorem State.setSeq_ctx (s : State) (q : Sequencer) : (s.setSeq q).ctx = s.ctx := rfl
@[simp] theorem State.setSeq_hostMem (s : State) (q : Sequencer) : (s.setSeq q).hostMem = s.hostMem := rfl
@[simp] theorem State.setSeq_portReg (s : State) (q : Sequencer) : (s.setSeq q).portReg = s.portReg := rfl
@[simp] theorem State.setSeq_events (s : State) (q : Sequencer) : (s.setSeq q).events = s.events := rfl
@[simp] theorem State.setSeq_wire (s : State) (q : Sequencer) : (s.setSeq q).wire = s.wire := rfl
@[simp] theorem State.setSeq_seq (s : State) (q : Sequencer) : (s.setSeq q).seq = q := rfl
@[simp] theorem State.setSeq_env (s : State) (q : Sequencer) : (s.setSeq q).env = s.env := rfl

/-! ## setReply -/

@[simp] theorem State.setReply_cfg (s : State) (p n : Word) : (s.setReply p n).cfg = s.cfg := rfl
@[simp] theorem State.setReply_regs (s : State) (p n : Word) : (s.setReply p n).regs = s.regs := rfl
@[simp] theorem State.setReply_args (s : State) (p n : Word) : (s.setReply p n).args = s.args := rfl
@[simp] theorem State.setReply_res (s : State) (p n : Word) : (s.setReply p n).res = { s.res with replyPtr := p, replyLen := n } := rfl
@[simp] theorem State.setReply_tx (s : State) (p n : Word) : (s.setReply p n).tx = s.tx := rfl
@[simp] theorem State.setReply_rx (s : State) (p n : Word) : (s.setReply p n).rx = s.rx := rfl
@[simp] theorem State.setReply_ft (s : State) (p n : Word) : (s.setReply p n).ft = s.ft := rfl
@[simp] theorem State.setReply_arena (s : State) (p n : Word) : (s.setReply p n).arena = s.arena := rfl
@[simp] theorem State.setReply_ctx (s : State) (p n : Word) : (s.setReply p n).ctx = s.ctx := rfl
@[simp] theorem State.setReply_hostMem (s : State) (p n : Word) : (s.setReply p n).hostMem = s.hostMem := rfl
@[simp] theorem State.setReply_portReg (s : State) (p n : Word) : (s.setReply p n).portReg = s.portReg := rfl
@[simp] theorem State.setReply_events (s : State) (p n : Word) : (s.setReply p n).events = s.events := rfl
@[simp] theorem State.setReply_wire (s : State) (p n : Word) : (s.setReply p n).wire = s.wire := rfl
@[simp] theorem State.setReply_seq (s : State) (p n : Word) : (s.setReply p n).seq = s.seq := rfl
@[simp] theorem State.setReply_env (s : State) (p n : Word) : (s.setReply p n).env = s.env := rfl

/-! ## setRetVal -/

@[simp] theorem State.setRetVal_cfg (s : State) (v : Word) : (s.setRetVal v).cfg = s.cfg := rfl
@[simp] theorem State.setRetVal_regs (s : State) (v : Word) : (s.setRetVal v).regs = s.regs := rfl
@[simp] theorem State.setRetVal_args (s : State) (v : Word) : (s.setRetVal v).args = s.args := rfl
@[simp] theorem State.setRetVal_res (s : State) (v : Word) : (s.setRetVal v).res = { s.res with retVal := v } := rfl
@[simp] theorem State.setRetVal_tx (s : State) (v : Word) : (s.setRetVal v).tx = s.tx := rfl
@[simp] theorem State.setRetVal_rx (s : State) (v : Word) : (s.setRetVal v).rx = s.rx := rfl
@[simp] theorem State.setRetVal_ft (s : State) (v : Word) : (s.setRetVal v).ft = s.ft := rfl
@[simp] theorem State.setRetVal_arena (s : State) (v : Word) : (s.setRetVal v).arena = s.arena := rfl
@[simp] theorem State.setRetVal_ctx (s : State) (v : Word) : (s.setRetVal v).ctx = s.ctx := rfl
@[simp] theorem State.setRetVal_hostMem (s : State) (v : Word) : (s.setRetVal v).hostMem = s.hostMem := rfl
@[simp] theorem State.setRetVal_portReg (s : State) (v : Word) : (s.setRetVal v).portReg = s.portReg := rfl
@[simp] theorem State.setRetVal_events (s : State) (v : Word) : (s.setRetVal v).events = s.events := rfl
@[simp] theorem State.setRetVal_wire (s : State) (v : Word) : (s.setRetVal v).wire = s.wire := rfl
@[simp] theorem State.setRetVal_seq (s : State) (v : Word) : (s.setRetVal v).seq = s.seq := rfl
@[simp] theorem State.setRetVal_env (s : State) (v : Word) : (s.setRetVal v).env = s.env := rfl

/-! ## emitAll -/

@[simp] theorem State.emitAll_cfg (s : State) (es : List Event) : (s.emitAll es).cfg = s.cfg := rfl
@[simp] theorem State.emitAll_regs (s : State) (es : List Event) : (s.emitAll es).regs = s.regs := rfl
@[simp] theorem State.emitAll_args (s : State) (es : List Event) : (s.emitAll es).args = s.args := rfl
@[simp] theorem State.emitAll_res (s : State) (es : List Event) : (s.emitAll es).res = s.res := rfl
@[simp] theorem State.emitAll_tx (s : State) (es : List Event) : (s.emitAll es).tx = s.tx := rfl
@[simp] theorem State.emitAll_rx (s : State) (es : List Event) : (s.emitAll es).rx = s.rx := rfl
@[simp] theorem State.emitAll_ft (s : State) (es : List Event) : (s.emitAll es).ft = s.ft := rfl
@[simp] theorem State.emitAll_arena (s : State) (es : List Event) : (s.emitAll es).arena = s.arena := rfl
@[simp] theorem State.emitAll_ctx (s : State) (es : List Event) : (s.emitAll es).ctx = s.ctx := rfl
@[simp] theorem State.emitAll_hostMem (s : State) (es : List Event) : (s.emitAll es).hostMem = s.hostMem := rfl
@[simp] theorem State.emitAll_portReg (s : State) (es : List Event) : (s.emitAll es).portReg = s.portReg := rfl
@[simp] theorem State.emitAll_events (s : State) (es : List Event) : (s.emitAll es).events = s.events ++ es := rfl
@[simp] theorem State.emitAll_wire (s : State) (es : List Event) : (s.emitAll es).wire = s.wire := rfl
@[simp] theorem State.emitAll_seq (s : State) (es : List Event) : (s.emitAll es).seq = s.seq := rfl
@[simp] theorem State.emitAll_env (s : State) (es : List Event) : (s.emitAll es).env = s.env := rfl

/-! ## emit -/

@[simp] theorem State.emit_cfg (s : State) (k : EventKind) (p : Int) : (s.emit k p).cfg = s.cfg := rfl
@[simp] theorem State.emit_regs (s : State) (k : EventKind) (p : Int) : (s.emit k p).regs = s.regs := rfl
@[simp] theorem State.emit_args (s : State) (k : EventKind) (p : Int) : (s.emit k p).args = s.args := rfl
@[simp] theorem State.emit_res (s : State) (k : EventKind) (p : Int) : (s.emit k p).res = s.res := rfl
@[simp] theorem State.emit_tx (s : State) (k : EventKind) (p : Int) : (s.emit k p).tx = s.tx := rfl
@[simp] theorem State.emit_rx (s : State) (k : EventKind) (p : Int) : (s.emit k p).rx = s.rx := rfl
@[simp] theorem State.emit_ft (s : State) (k : EventKind) (p : Int) : (s.emit k p).ft = s.ft := rfl
@[simp] theorem State.emit_arena (s : State) (k : EventKind) (p : Int) : (s.emit k p).arena = s.arena := rfl
@[simp] theorem State.emit_ctx (s : State) (k : EventKind) (p : Int) : (s.emit k p).ctx = s.ctx := rfl
@[simp] theorem State.emit_hostMem (s : State) (k : EventKind) (p : Int) : (s.emit k p).hostMem = s.hostMem := rfl
@[simp] theorem State.emit_portReg (s : State) (k : EventKind) (p : Int) : (s.emit k p).portReg = s.portReg := rfl
@[simp] theorem State.emit_events (s : State) (k : EventKind) (p : Int) : (s.emit k p).events = s.events ++ [⟨k, p⟩] := rfl
@[simp] theorem State.emit_wire (s : State) (k : EventKind) (p : Int) : (s.emit k p).wire = s.wire := rfl
@[simp] theorem State.emit_seq (s : State) (k : EventKind) (p : Int) : (s.emit k p).seq = s.seq := rfl
@[simp] theorem State.emit_env (s : State) (k : EventKind) (p : Int) : (s.emit k p).env = s.env := rfl

/-! ## raise -/

@[simp] theorem State.raise_cfg (s : State) (code : Code) : (s.raise code).cfg = s.cfg := rfl
@[simp] theorem State.raise_regs (s : State) (code : Code) : (s.raise code).regs = s.regs := rfl
@[simp] theorem State.raise_args (s : State) (code : Code) : (s.raise code).args = s.args := rfl
@[simp] theorem State.raise_res (s : State) (code : Code) : (s.raise code).res = { s.res with result := code.toHalf } := rfl
@[simp] theorem State.raise_tx (s : State) (code : Code) : (s.raise code).tx = s.tx := rfl
@[simp] theorem State.raise_rx (s : State) (code : Code) : (s.raise code).rx = s.rx := rfl
@[simp] theorem State.raise_ft (s : State) (code : Code) : (s.raise code).ft = s.ft := rfl
@[simp] theorem State.raise_arena (s : State) (code : Code) : (s.raise code).arena = s.arena := rfl
@[simp] theorem State.raise_ctx (s : State) (code : Code) : (s.raise code).ctx = s.ctx := rfl
@[simp] theorem State.raise_hostMem (s : State) (code : Code) : (s.raise code).hostMem = s.hostMem := rfl
@[simp] theorem State.raise_portReg (s : State) (code : Code) : (s.raise code).portReg = s.portReg := rfl
@[simp] theorem State.raise_events (s : State) (code : Code) : (s.raise code).events = s.events := rfl
@[simp] theorem State.raise_wire (s : State) (code : Code) : (s.raise code).wire = s.wire := rfl
@[simp] theorem State.raise_seq (s : State) (code : Code) : (s.raise code).seq = s.seq := rfl
@[simp] theorem State.raise_env (s : State) (code : Code) : (s.raise code).env = s.env := rfl

/-! ## withAgenda -/

@[simp] theorem State.withAgenda_cfg (s : State) (l : List Input) : (s.withAgenda l).cfg = s.cfg := rfl
@[simp] theorem State.withAgenda_regs (s : State) (l : List Input) : (s.withAgenda l).regs = s.regs := rfl
@[simp] theorem State.withAgenda_args (s : State) (l : List Input) : (s.withAgenda l).args = s.args := rfl
@[simp] theorem State.withAgenda_res (s : State) (l : List Input) : (s.withAgenda l).res = s.res := rfl
@[simp] theorem State.withAgenda_tx (s : State) (l : List Input) : (s.withAgenda l).tx = s.tx := rfl
@[simp] theorem State.withAgenda_rx (s : State) (l : List Input) : (s.withAgenda l).rx = s.rx := rfl
@[simp] theorem State.withAgenda_ft (s : State) (l : List Input) : (s.withAgenda l).ft = s.ft := rfl
@[simp] theorem State.withAgenda_arena (s : State) (l : List Input) : (s.withAgenda l).arena = s.arena := rfl
@[simp] theorem State.withAgenda_ctx (s : State) (l : List Input) : (s.withAgenda l).ctx = s.ctx := rfl
@[simp] theorem State.withAgenda_hostMem (s : State) (l : List Input) : (s.withAgenda l).hostMem = s.hostMem := rfl
@[simp] theorem State.withAgenda_portReg (s : State) (l : List Input) : (s.withAgenda l).portReg = s.portReg := rfl
@[simp] theorem State.withAgenda_events (s : State) (l : List Input) : (s.withAgenda l).events = s.events := rfl
@[simp] theorem State.withAgenda_wire (s : State) (l : List Input) : (s.withAgenda l).wire = s.wire := rfl
@[simp] theorem State.withAgenda_seq (s : State) (l : List Input) : (s.withAgenda l).seq = s.seq := rfl
@[simp] theorem State.withAgenda_env (s : State) (l : List Input) : (s.withAgenda l).env = { s.env with agenda := l } := rfl

/-! ## clearRings, sync, hardwareReset -/

@[simp] theorem clearRings_cfg (s : State) : (clearRings s).cfg = s.cfg := rfl
@[simp] theorem clearRings_regs (s : State) : (clearRings s).regs = { s.regs with txIndex := 0, rxIndex := 0, arenaPtr := 0 } := rfl
@[simp] theorem clearRings_args (s : State) : (clearRings s).args = s.args := rfl
@[simp] theorem clearRings_res (s : State) : (clearRings s).res = s.res := rfl
@[simp] theorem clearRings_tx (s : State) : (clearRings s).tx = List.replicate s.cfg.maxTx TxDesc.zero := rfl
@[simp] theorem clearRings_rx (s : State) : (clearRings s).rx = List.replicate s.cfg.maxRx RxDesc.zero := rfl
@[simp] theorem clearRings_ft (s : State) : (clearRings s).ft = List.replicate s.cfg.maxRx 0 := rfl
@[simp] theorem clearRings_arena (s : State) : (clearRings s).arena = s.arena := rfl
@[simp] theorem clearRings_ctx (s : State) : (clearRings s).ctx = s.ctx := rfl
@[simp] theorem clearRings_hostMem (s : State) : (clearRings s).hostMem = s.hostMem := rfl
@[simp] theorem clearRings_portReg (s : State) : (clearRings s).portReg = s.portReg := rfl
@[simp] theorem clearRings_events (s : State) : (clearRings s).events = s.events := rfl
@[simp] theorem clearRings_wire (s : State) : (clearRings s).wire = s.wire := rfl
@[simp] theorem clearRings_seq (s : State) : (clearRings s).seq = s.seq := rfl
@[simp] theorem clearRings_env (s : State) : (clearRings s).env = s.env := rfl

@[simp] theorem State.sync_eq (s : State) : s.sync = s := rfl
@[simp] theorem hardwareReset_eq (s : State) : hardwareReset s = s := rfl

/-! ## Environment -/

@[simp] theorem Env.countFree_agenda (e : Env) : e.countFree.agenda = e.agenda := rfl
@[simp] theorem Env.countFree_linkDraws (e : Env) : e.countFree.linkDraws = e.linkDraws := rfl
@[simp] theorem Env.countFree_statusDraws (e : Env) : e.countFree.statusDraws = e.statusDraws := rfl
@[simp] theorem Env.countFree_timerDraws (e : Env) : e.countFree.timerDraws = e.timerDraws := rfl
@[simp] theorem Env.countFree_timer (e : Env) : e.countFree.timer = e.timer := rfl
@[simp] theorem Env.countFree_freeCount (e : Env) : e.countFree.freeCount = e.freeCount + 1 := rfl
@[simp] theorem Env.countFree_readData (e : Env) : e.countFree.readData = e.readData := rfl

/-! ## withParams -/

@[simp] theorem State.withParams_cfg (s : State) (cfg : Config) :
    (s.withParams cfg).cfg = { s.cfg with toParams := cfg.toParams } := rfl
@[simp] theorem State.withParams_regs (s : State) (cfg : Config) : (s.withParams cfg).regs = s.regs := rfl
@[simp] theorem State.withParams_args (s : State) (cfg : Config) : (s.withParams cfg).args = s.args := rfl
@[simp] theorem State.withParams_res (s : State) (cfg : Config) : (s.withParams cfg).res = s.res := rfl
@[simp] theorem State.withParams_tx (s : State) (cfg : Config) : (s.withParams cfg).tx = s.tx := rfl
@[simp] theorem State.withParams_rx (s : State) (cfg : Config) : (s.withParams cfg).rx = s.rx := rfl
@[simp] theorem State.withParams_ft (s : State) (cfg : Config) : (s.withParams cfg).ft = s.ft := rfl
@[simp] theorem State.withParams_arena (s : State) (cfg : Config) : (s.withParams cfg).arena = s.arena := rfl
@[simp] theorem State.withParams_ctx (s : State) (cfg : Config) : (s.withParams cfg).ctx = s.ctx := rfl
@[simp] theorem State.withParams_hostMem (s : State) (cfg : Config) : (s.withParams cfg).hostMem = s.hostMem := rfl
@[simp] theorem State.withParams_portReg (s : State) (cfg : Config) : (s.withParams cfg).portReg = s.portReg := rfl
@[simp] theorem State.withParams_events (s : State) (cfg : Config) : (s.withParams cfg).events = s.events := rfl
@[simp] theorem State.withParams_wire (s : State) (cfg : Config) : (s.withParams cfg).wire = s.wire := rfl
@[simp] theorem State.withParams_seq (s : State) (cfg : Config) : (s.withParams cfg).seq = s.seq := rfl
@[simp] theorem State.withParams_env (s : State) (cfg : Config) : (s.withParams cfg).env = s.env := rfl

/-- A state with the parameters of the `Config` already is as it was. -/
theorem State.withParams_of_eq {s : State} {cfg : Config} (h : s.cfg.toParams = cfg.toParams) :
    s.withParams cfg = s := by
  rw [State.withParams, ← h]

end Sys2Proof.Machine
end

