-- ==== Sys2Proof/Laws/Ops.lean ====
section
/-! SUPPORT. The accessors of rings, tables and contexts after the named updates; what a draw, a guard and the end
of a command do. -/

namespace Sys2Proof.Machine

open Sys2Proof

/-! ## Accessors after updates of something else -/

@[simp] theorem State.setRx_txAt (s : State) (i : Nat) (d : RxDesc) (x : Nat) : (s.setRx i d).txAt x = s.txAt x := rfl
@[simp] theorem State.setFt_txAt (s : State) (i : Nat) (f : Half) (x : Nat) : (s.setFt i f).txAt x = s.txAt x := rfl
@[simp] theorem State.setCtx_txAt (s : State) (c : Nat) (k : Ctx) (x : Nat) : (s.setCtx c k).txAt x = s.txAt x := rfl
@[simp] theorem State.setPortReg_txAt (s : State) (p : Nat) (r : PortHw) (x : Nat) : (s.setPortReg p r).txAt x = s.txAt x := rfl
@[simp] theorem State.setRegs_txAt (s : State) (r : Regs) (x : Nat) : (s.setRegs r).txAt x = s.txAt x := rfl
@[simp] theorem State.setArgs_txAt (s : State) (a : Args) (x : Nat) : (s.setArgs a).txAt x = s.txAt x := rfl
@[simp] theorem State.setArena_txAt (s : State) (m : Mem) (x : Nat) : (s.setArena m).txAt x = s.txAt x := rfl
@[simp] theorem State.setEnv_txAt (s : State) (e : Env) (x : Nat) : (s.setEnv e).txAt x = s.txAt x := rfl
@[simp] theorem State.setSeq_txAt (s : State) (q : Sequencer) (x : Nat) : (s.setSeq q).txAt x = s.txAt x := rfl
@[simp] theorem State.setReply_txAt (s : State) (p n : Word) (x : Nat) : (s.setReply p n).txAt x = s.txAt x := rfl
@[simp] theorem State.setRetVal_txAt (s : State) (v : Word) (x : Nat) : (s.setRetVal v).txAt x = s.txAt x := rfl
@[simp] theorem State.emitAll_txAt (s : State) (es : List Event) (x : Nat) : (s.emitAll es).txAt x = s.txAt x := rfl
@[simp] theorem State.emit_txAt (s : State) (k : EventKind) (p : Int) (x : Nat) : (s.emit k p).txAt x = s.txAt x := rfl
@[simp] theorem State.raise_txAt (s : State) (code : Code) (x : Nat) : (s.raise code).txAt x = s.txAt x := rfl
@[simp] theorem State.withAgenda_txAt (s : State) (l : List Input) (x : Nat) : (s.withAgenda l).txAt x = s.txAt x := rfl

@[simp] theorem State.setTx_rxAt (s : State) (t : Nat) (d : TxDesc) (x : Nat) : (s.setTx t d).rxAt x = s.rxAt x := rfl
@[simp] theorem State.setFt_rxAt (s : State) (i : Nat) (f : Half) (x : Nat) : (s.setFt i f).rxAt x = s.rxAt x := rfl
@[simp] theorem State.setCtx_rxAt (s : State) (c : Nat) (k : Ctx) (x : Nat) : (s.setCtx c k).rxAt x = s.rxAt x := rfl
@[simp] theorem State.setPortReg_rxAt (s : State) (p : Nat) (r : PortHw) (x : Nat) : (s.setPortReg p r).rxAt x = s.rxAt x := rfl
@[simp] theorem State.setRegs_rxAt (s : State) (r : Regs) (x : Nat) : (s.setRegs r).rxAt x = s.rxAt x := rfl
@[simp] theorem State.setArgs_rxAt (s : State) (a : Args) (x : Nat) : (s.setArgs a).rxAt x = s.rxAt x := rfl
@[simp] theorem State.setArena_rxAt (s : State) (m : Mem) (x : Nat) : (s.setArena m).rxAt x = s.rxAt x := rfl
@[simp] theorem State.setEnv_rxAt (s : State) (e : Env) (x : Nat) : (s.setEnv e).rxAt x = s.rxAt x := rfl
@[simp] theorem State.setSeq_rxAt (s : State) (q : Sequencer) (x : Nat) : (s.setSeq q).rxAt x = s.rxAt x := rfl
@[simp] theorem State.setReply_rxAt (s : State) (p n : Word) (x : Nat) : (s.setReply p n).rxAt x = s.rxAt x := rfl
@[simp] theorem State.setRetVal_rxAt (s : State) (v : Word) (x : Nat) : (s.setRetVal v).rxAt x = s.rxAt x := rfl
@[simp] theorem State.emitAll_rxAt (s : State) (es : List Event) (x : Nat) : (s.emitAll es).rxAt x = s.rxAt x := rfl
@[simp] theorem State.emit_rxAt (s : State) (k : EventKind) (p : Int) (x : Nat) : (s.emit k p).rxAt x = s.rxAt x := rfl
@[simp] theorem State.raise_rxAt (s : State) (code : Code) (x : Nat) : (s.raise code).rxAt x = s.rxAt x := rfl
@[simp] theorem State.withAgenda_rxAt (s : State) (l : List Input) (x : Nat) : (s.withAgenda l).rxAt x = s.rxAt x := rfl

@[simp] theorem State.setTx_ftAt (s : State) (t : Nat) (d : TxDesc) (x : Nat) : (s.setTx t d).ftAt x = s.ftAt x := rfl
@[simp] theorem State.setRx_ftAt (s : State) (i : Nat) (d : RxDesc) (x : Nat) : (s.setRx i d).ftAt x = s.ftAt x := rfl
@[simp] theorem State.setCtx_ftAt (s : State) (c : Nat) (k : Ctx) (x : Nat) : (s.setCtx c k).ftAt x = s.ftAt x := rfl
@[simp] theorem State.setPortReg_ftAt (s : State) (p : Nat) (r : PortHw) (x : Nat) : (s.setPortReg p r).ftAt x = s.ftAt x := rfl
@[simp] theorem State.setRegs_ftAt (s : State) (r : Regs) (x : Nat) : (s.setRegs r).ftAt x = s.ftAt x := rfl
@[simp] theorem State.setArgs_ftAt (s : State) (a : Args) (x : Nat) : (s.setArgs a).ftAt x = s.ftAt x := rfl
@[simp] theorem State.setArena_ftAt (s : State) (m : Mem) (x : Nat) : (s.setArena m).ftAt x = s.ftAt x := rfl
@[simp] theorem State.setEnv_ftAt (s : State) (e : Env) (x : Nat) : (s.setEnv e).ftAt x = s.ftAt x := rfl
@[simp] theorem State.setSeq_ftAt (s : State) (q : Sequencer) (x : Nat) : (s.setSeq q).ftAt x = s.ftAt x := rfl
@[simp] theorem State.setReply_ftAt (s : State) (p n : Word) (x : Nat) : (s.setReply p n).ftAt x = s.ftAt x := rfl
@[simp] theorem State.setRetVal_ftAt (s : State) (v : Word) (x : Nat) : (s.setRetVal v).ftAt x = s.ftAt x := rfl
@[simp] theorem State.emitAll_ftAt (s : State) (es : List Event) (x : Nat) : (s.emitAll es).ftAt x = s.ftAt x := rfl
@[simp] theorem State.emit_ftAt (s : State) (k : EventKind) (p : Int) (x : Nat) : (s.emit k p).ftAt x = s.ftAt x := rfl
@[simp] theorem State.raise_ftAt (s : State) (code : Code) (x : Nat) : (s.raise code).ftAt x = s.ftAt x := rfl
@[simp] theorem State.withAgenda_ftAt (s : State) (l : List Input) (x : Nat) : (s.withAgenda l).ftAt x = s.ftAt x := rfl

@[simp] theorem State.setTx_ctxAt (s : State) (t : Nat) (d : TxDesc) (x : Nat) : (s.setTx t d).ctxAt x = s.ctxAt x := rfl
@[simp] theorem State.setRx_ctxAt (s : State) (i : Nat) (d : RxDesc) (x : Nat) : (s.setRx i d).ctxAt x = s.ctxAt x := rfl
@[simp] theorem State.setFt_ctxAt (s : State) (i : Nat) (f : Half) (x : Nat) : (s.setFt i f).ctxAt x = s.ctxAt x := rfl
@[simp] theorem State.setPortReg_ctxAt (s : State) (p : Nat) (r : PortHw) (x : Nat) : (s.setPortReg p r).ctxAt x = s.ctxAt x := rfl
@[simp] theorem State.setRegs_ctxAt (s : State) (r : Regs) (x : Nat) : (s.setRegs r).ctxAt x = s.ctxAt x := rfl
@[simp] theorem State.setArgs_ctxAt (s : State) (a : Args) (x : Nat) : (s.setArgs a).ctxAt x = s.ctxAt x := rfl
@[simp] theorem State.setArena_ctxAt (s : State) (m : Mem) (x : Nat) : (s.setArena m).ctxAt x = s.ctxAt x := rfl
@[simp] theorem State.setEnv_ctxAt (s : State) (e : Env) (x : Nat) : (s.setEnv e).ctxAt x = s.ctxAt x := rfl
@[simp] theorem State.setSeq_ctxAt (s : State) (q : Sequencer) (x : Nat) : (s.setSeq q).ctxAt x = s.ctxAt x := rfl
@[simp] theorem State.setReply_ctxAt (s : State) (p n : Word) (x : Nat) : (s.setReply p n).ctxAt x = s.ctxAt x := rfl
@[simp] theorem State.setRetVal_ctxAt (s : State) (v : Word) (x : Nat) : (s.setRetVal v).ctxAt x = s.ctxAt x := rfl
@[simp] theorem State.emitAll_ctxAt (s : State) (es : List Event) (x : Nat) : (s.emitAll es).ctxAt x = s.ctxAt x := rfl
@[simp] theorem State.emit_ctxAt (s : State) (k : EventKind) (p : Int) (x : Nat) : (s.emit k p).ctxAt x = s.ctxAt x := rfl
@[simp] theorem State.raise_ctxAt (s : State) (code : Code) (x : Nat) : (s.raise code).ctxAt x = s.ctxAt x := rfl
@[simp] theorem State.withAgenda_ctxAt (s : State) (l : List Input) (x : Nat) : (s.withAgenda l).ctxAt x = s.ctxAt x := rfl

@[simp] theorem State.setTx_bound (s : State) (t : Nat) (d : TxDesc) : (s.setTx t d).bound = s.bound := rfl
@[simp] theorem State.setRx_bound (s : State) (i : Nat) (d : RxDesc) : (s.setRx i d).bound = s.bound := rfl
@[simp] theorem State.setFt_bound (s : State) (i : Nat) (f : Half) : (s.setFt i f).bound = s.bound := rfl
@[simp] theorem State.setCtx_bound (s : State) (c : Nat) (k : Ctx) : (s.setCtx c k).bound = s.bound := rfl
@[simp] theorem State.setPortReg_bound (s : State) (p : Nat) (r : PortHw) : (s.setPortReg p r).bound = s.bound := rfl
@[simp] theorem State.setArgs_bound (s : State) (a : Args) : (s.setArgs a).bound = s.bound := rfl
@[simp] theorem State.setArena_bound (s : State) (m : Mem) : (s.setArena m).bound = s.bound := rfl
@[simp] theorem State.setEnv_bound (s : State) (e : Env) : (s.setEnv e).bound = s.bound := rfl
@[simp] theorem State.setSeq_bound (s : State) (q : Sequencer) : (s.setSeq q).bound = s.bound := rfl
@[simp] theorem State.setReply_bound (s : State) (p n : Word) : (s.setReply p n).bound = s.bound := rfl
@[simp] theorem State.setRetVal_bound (s : State) (v : Word) : (s.setRetVal v).bound = s.bound := rfl
@[simp] theorem State.emitAll_bound (s : State) (es : List Event) : (s.emitAll es).bound = s.bound := rfl
@[simp] theorem State.emit_bound (s : State) (k : EventKind) (p : Int) : (s.emit k p).bound = s.bound := rfl
@[simp] theorem State.raise_bound (s : State) (code : Code) : (s.raise code).bound = s.bound := rfl
@[simp] theorem State.withAgenda_bound (s : State) (l : List Input) : (s.withAgenda l).bound = s.bound := rfl

@[simp] theorem State.setTx_cookieValid (s : State) (t : Nat) (d : TxDesc) (x : Nat) : (s.setTx t d).cookieValid x = s.cookieValid x := rfl
@[simp] theorem State.setRx_cookieValid (s : State) (i : Nat) (d : RxDesc) (x : Nat) : (s.setRx i d).cookieValid x = s.cookieValid x := rfl
@[simp] theorem State.setFt_cookieValid (s : State) (i : Nat) (f : Half) (x : Nat) : (s.setFt i f).cookieValid x = s.cookieValid x := rfl
@[simp] theorem State.setPortReg_cookieValid (s : State) (p : Nat) (r : PortHw) (x : Nat) : (s.setPortReg p r).cookieValid x = s.cookieValid x := rfl
@[simp] theorem State.setRegs_cookieValid (s : State) (r : Regs) (x : Nat) : (s.setRegs r).cookieValid x = s.cookieValid x := rfl
@[simp] theorem State.setArgs_cookieValid (s : State) (a : Args) (x : Nat) : (s.setArgs a).cookieValid x = s.cookieValid x := rfl
@[simp] theorem State.setArena_cookieValid (s : State) (m : Mem) (x : Nat) : (s.setArena m).cookieValid x = s.cookieValid x := rfl
@[simp] theorem State.setEnv_cookieValid (s : State) (e : Env) (x : Nat) : (s.setEnv e).cookieValid x = s.cookieValid x := rfl
@[simp] theorem State.setSeq_cookieValid (s : State) (q : Sequencer) (x : Nat) : (s.setSeq q).cookieValid x = s.cookieValid x := rfl
@[simp] theorem State.setReply_cookieValid (s : State) (p n : Word) (x : Nat) : (s.setReply p n).cookieValid x = s.cookieValid x := rfl
@[simp] theorem State.setRetVal_cookieValid (s : State) (v : Word) (x : Nat) : (s.setRetVal v).cookieValid x = s.cookieValid x := rfl
@[simp] theorem State.emitAll_cookieValid (s : State) (es : List Event) (x : Nat) : (s.emitAll es).cookieValid x = s.cookieValid x := rfl
@[simp] theorem State.emit_cookieValid (s : State) (k : EventKind) (p : Int) (x : Nat) : (s.emit k p).cookieValid x = s.cookieValid x := rfl
@[simp] theorem State.raise_cookieValid (s : State) (code : Code) (x : Nat) : (s.raise code).cookieValid x = s.cookieValid x := rfl
@[simp] theorem State.withAgenda_cookieValid (s : State) (l : List Input) (x : Nat) : (s.withAgenda l).cookieValid x = s.cookieValid x := rfl

@[simp] theorem State.setTx_pkt (s : State) (t : Nat) (d : TxDesc) (x : Nat) : (s.setTx t d).pkt x = s.pkt x := rfl
@[simp] theorem State.setFt_pkt (s : State) (i : Nat) (f : Half) (x : Nat) : (s.setFt i f).pkt x = s.pkt x := rfl
@[simp] theorem State.setCtx_pkt (s : State) (c : Nat) (k : Ctx) (x : Nat) : (s.setCtx c k).pkt x = s.pkt x := rfl
@[simp] theorem State.setPortReg_pkt (s : State) (p : Nat) (r : PortHw) (x : Nat) : (s.setPortReg p r).pkt x = s.pkt x := rfl
@[simp] theorem State.setRegs_pkt (s : State) (r : Regs) (x : Nat) : (s.setRegs r).pkt x = s.pkt x := rfl
@[simp] theorem State.setArgs_pkt (s : State) (a : Args) (x : Nat) : (s.setArgs a).pkt x = s.pkt x := rfl
@[simp] theorem State.setEnv_pkt (s : State) (e : Env) (x : Nat) : (s.setEnv e).pkt x = s.pkt x := rfl
@[simp] theorem State.setSeq_pkt (s : State) (q : Sequencer) (x : Nat) : (s.setSeq q).pkt x = s.pkt x := rfl
@[simp] theorem State.setReply_pkt (s : State) (p n : Word) (x : Nat) : (s.setReply p n).pkt x = s.pkt x := rfl
@[simp] theorem State.setRetVal_pkt (s : State) (v : Word) (x : Nat) : (s.setRetVal v).pkt x = s.pkt x := rfl
@[simp] theorem State.emitAll_pkt (s : State) (es : List Event) (x : Nat) : (s.emitAll es).pkt x = s.pkt x := rfl
@[simp] theorem State.emit_pkt (s : State) (k : EventKind) (p : Int) (x : Nat) : (s.emit k p).pkt x = s.pkt x := rfl
@[simp] theorem State.raise_pkt (s : State) (code : Code) (x : Nat) : (s.raise code).pkt x = s.pkt x := rfl
@[simp] theorem State.withAgenda_pkt (s : State) (l : List Input) (x : Nat) : (s.withAgenda l).pkt x = s.pkt x := rfl

@[simp] theorem State.setFt_pointersInRange (s : State) (i : Nat) (f : Half) : (s.setFt i f).pointersInRange = s.pointersInRange := rfl
@[simp] theorem State.setPortReg_pointersInRange (s : State) (p : Nat) (r : PortHw) : (s.setPortReg p r).pointersInRange = s.pointersInRange := rfl
@[simp] theorem State.setRegs_pointersInRange (s : State) (r : Regs) : (s.setRegs r).pointersInRange = s.pointersInRange := rfl
@[simp] theorem State.setArgs_pointersInRange (s : State) (a : Args) : (s.setArgs a).pointersInRange = s.pointersInRange := rfl
@[simp] theorem State.setArena_pointersInRange (s : State) (m : Mem) : (s.setArena m).pointersInRange = s.pointersInRange := rfl
@[simp] theorem State.setEnv_pointersInRange (s : State) (e : Env) : (s.setEnv e).pointersInRange = s.pointersInRange := rfl
@[simp] theorem State.setSeq_pointersInRange (s : State) (q : Sequencer) : (s.setSeq q).pointersInRange = s.pointersInRange := rfl
@[simp] theorem State.setReply_pointersInRange (s : State) (p n : Word) : (s.setReply p n).pointersInRange = s.pointersInRange := rfl
@[simp] theorem State.setRetVal_pointersInRange (s : State) (v : Word) : (s.setRetVal v).pointersInRange = s.pointersInRange := rfl
@[simp] theorem State.emitAll_pointersInRange (s : State) (es : List Event) : (s.emitAll es).pointersInRange = s.pointersInRange := rfl
@[simp] theorem State.emit_pointersInRange (s : State) (k : EventKind) (p : Int) : (s.emit k p).pointersInRange = s.pointersInRange := rfl
@[simp] theorem State.raise_pointersInRange (s : State) (code : Code) : (s.raise code).pointersInRange = s.pointersInRange := rfl
@[simp] theorem State.withAgenda_pointersInRange (s : State) (l : List Input) : (s.withAgenda l).pointersInRange = s.pointersInRange := rfl

/-! ## Accessors after an update of their own table -/

theorem getD_set {α : Type} (l : List α) (i j : Nat) (v z : α) :
    (l.set i v).getD j z = if j = i ∧ i < l.length then v else l.getD j z := by
  simp only [List.getD_eq_getElem?_getD, List.getElem?_set]
  by_cases hij : i = j
  · subst hij
    by_cases hl : i < l.length
    · simp [hl]
    · simp [hl]
  · simp [hij, Ne.symm hij]

theorem State.txAt_setTx (s : State) (t : Nat) (d : TxDesc) (x : Nat) :
    (s.setTx t d).txAt x = if x = t ∧ t < s.tx.length then d else s.txAt x := getD_set ..
theorem State.rxAt_setRx (s : State) (i : Nat) (d : RxDesc) (x : Nat) :
    (s.setRx i d).rxAt x = if x = i ∧ i < s.rx.length then d else s.rxAt x := getD_set ..
theorem State.ftAt_setFt (s : State) (i : Nat) (f : Half) (x : Nat) :
    (s.setFt i f).ftAt x = if x = i ∧ i < s.ft.length then f else s.ftAt x := getD_set ..
theorem State.ctxAt_setCtx (s : State) (c : Nat) (k : Ctx) (x : Nat) :
    (s.setCtx c k).ctxAt x = if x = c ∧ c < s.ctx.length then k else s.ctxAt x := getD_set ..

theorem State.txAt_setTx_ne (s : State) {t x : Nat} (d : TxDesc) (h : x ≠ t) : (s.setTx t d).txAt x = s.txAt x := by
  rw [State.txAt_setTx, if_neg (fun hc => h hc.1)]
theorem State.rxAt_setRx_ne (s : State) {i x : Nat} (d : RxDesc) (h : x ≠ i) : (s.setRx i d).rxAt x = s.rxAt x := by
  rw [State.rxAt_setRx, if_neg (fun hc => h hc.1)]
theorem State.ftAt_setFt_ne (s : State) {i x : Nat} (f : Half) (h : x ≠ i) : (s.setFt i f).ftAt x = s.ftAt x := by
  rw [State.ftAt_setFt, if_neg (fun hc => h hc.1)]
theorem State.ctxAt_setCtx_ne (s : State) {c x : Nat} (k : Ctx) (h : x ≠ c) : (s.setCtx c k).ctxAt x = s.ctxAt x := by
  rw [State.ctxAt_setCtx, if_neg (fun hc => h hc.1)]

theorem getD_replicate {α : Type} (n i : Nat) (z : α) : (List.replicate n z).getD i z = z := by
  simp only [List.getD_eq_getElem?_getD, List.getElem?_replicate]
  split <;> rfl

@[simp] theorem clearRings_txAt (s : State) (t : Nat) : (clearRings s).txAt t = TxDesc.zero := getD_replicate ..
@[simp] theorem clearRings_rxAt (s : State) (i : Nat) : (clearRings s).rxAt i = RxDesc.zero := getD_replicate ..
@[simp] theorem clearRings_ftAt (s : State) (i : Nat) : (clearRings s).ftAt i = 0 := getD_replicate ..
@[simp] theorem clearRings_ctxAt (s : State) (c : Nat) : (clearRings s).ctxAt c = s.ctxAt c := rfl
@[simp] theorem clearRings_bound (s : State) : (clearRings s).bound = s.bound := rfl
@[simp] theorem clearRings_cookieValid (s : State) (c : Nat) : (clearRings s).cookieValid c = s.cookieValid c := rfl

/-- The cookie test in words (rule R356). -/
theorem State.cookieValid_iff (s : State) (c : Nat) :
    s.cookieValid c = true ↔ c < s.cfg.nCookies ∧ (s.ctxAt c).valid = true := by
  simp [State.cookieValid]

/-- A context whose handle is open is in the file. -/
theorem State.lt_length_of_cookieValid {s : State} {c : Nat} (h : s.cookieValid c = true) : c < s.ctx.length := by
  by_contra hc
  have h0 : s.ctxAt c = Ctx.zero := by
    unfold State.ctxAt; rw [List.getD_eq_getElem?_getD, List.getElem?_eq_none (by omega)]; rfl
  have := (s.cookieValid_iff c).1 h
  rw [h0] at this
  exact absurd this.2 (by decide)

theorem State.bound_iff (s : State) : s.bound = true ↔ s.regs.port ≠ 0xFF := by
  simp [State.bound, noPort]

/-! ## Parameters and pointers -/

/-- The bounds of spec/00_scope.md rules R7, R8 as arithmetic. -/
theorem Build.ok_bounds {cfg : Build} (h : cfg.ok = true) :
    1 ≤ cfg.maxTx ∧ cfg.maxTx < 2 ^ 32 ∧ 1 ≤ cfg.maxRx ∧ cfg.maxRx < 2 ^ 32 ∧ cfg.arenaSize < 2 ^ 32 ∧
    13 ≤ cfg.maxPacketLen ∧ cfg.maxPacketLen ≤ 2 ^ 24 + 12 ∧ cfg.maxPacketLen ≤ cfg.arenaHeadroom ∧
    1 ≤ cfg.nPorts ∧ cfg.nPorts ≤ 127 ∧ 1 ≤ cfg.nCookies ∧ cfg.nCookies ≤ 255 := by
  simp only [Build.ok, Params.InRange, decide_eq_true_eq] at h
  omega

/-- A test every member of a list passes is one every index passes, where the default passes it too. -/
theorem all_iff_getD {α : Type} (l : List α) (p : α → Bool) (z : α) (hz : p z = true) :
    l.all p = true ↔ ∀ i, p (l.getD i z) = true := by
  rw [List.all_eq_true]
  constructor
  · intro h i
    rw [List.getD_eq_getElem?_getD]
    by_cases hi : i < l.length
    · rw [List.getElem?_eq_getElem hi]; exact h _ (List.getElem_mem hi)
    · rw [List.getElem?_eq_none (by omega)]; exact hz
  · intro h x hx
    obtain ⟨i, hi, rfl⟩ := List.getElem_of_mem hx
    have := h i
    rwa [List.getD_eq_getElem?_getD, List.getElem?_eq_getElem hi] at this

/-- Pointers in range, slot by slot. -/
theorem State.pointersInRange_iff {s : State} (hc : s.cfg.ok = true) : s.pointersInRange = true ↔
    (∀ t, (s.txAt t).hptr.toNat ≤ s.cfg.nCookies ∧ ((s.txAt t).en = true → 1 ≤ (s.txAt t).hptr.toNat)) ∧
    (∀ i, (s.rxAt i).ptr.toNat + (s.rxAt i).len.toNat ≤ s.cfg.arenaSize) ∧
    (∀ c, (s.ctxAt c).txdesc < s.cfg.maxTx ∧ (s.ctxAt c).rxdescIndex < s.cfg.maxRx) := by
  obtain ⟨h1, -, h2, -⟩ := Build.ok_bounds hc
  unfold State.pointersInRange
  rw [Bool.and_eq_true, Bool.and_eq_true, all_iff_getD _ _ TxDesc.zero (by simp [TxDesc.zero, TxDesc.en]),
    all_iff_getD _ _ RxDesc.zero (by simp [RxDesc.zero]), all_iff_getD _ _ Ctx.zero
      (by rw [Bool.and_eq_true, decide_eq_true_eq, decide_eq_true_eq]; exact ⟨h1, h2⟩), and_assoc]
  refine and_congr (forall_congr' fun t => ?_) (and_congr (forall_congr' fun i => ?_) (forall_congr' fun c => ?_))
  · rw [Bool.and_eq_true, decide_eq_true_eq, State.txAt]
    refine and_congr_right fun _ => ?_
    cases (s.tx.getD t TxDesc.zero).en <;> simp
  · exact decide_eq_true_iff
  · rw [Bool.and_eq_true, decide_eq_true_eq, decide_eq_true_eq]; rfl

/-! ## Draws: only the environment changes, by what is read -/

/-- Nothing is read. -/
theorem InputsRead.refl (e : Env) : InputsRead 0 0 0 e e :=
  ⟨rfl, rfl, rfl, rfl, rfl, Nat.le_refl _, fun _ => rfl, by omega⟩

/-- Readings one after the other add up. -/
theorem InputsRead.trans {l k t l' k' t' : Nat} {e e' e'' : Env} (h : InputsRead l k t e e')
    (h' : InputsRead l' k' t' e' e'') : InputsRead (l + l') (k + k') (t + t') e e'' where
  agenda := h'.agenda.trans h.agenda
  readData := h'.readData.trans h.readData
  linkDraws := by rw [h'.linkDraws, h.linkDraws, List.drop_drop]
  statusDraws := by rw [h'.statusDraws, h.statusDraws, List.drop_drop]
  timerDraws := by rw [h'.timerDraws, h.timerDraws, List.drop_drop]
  timer := Nat.le_trans h.timer h'.timer
  timerUnread ht := (h'.timerUnread (by omega)).trans (h.timerUnread (by omega))
  freeCount := by
    rw [h'.freeCount, h.freeCount, h.linkDraws, h.statusDraws, h.timerDraws]
    simp only [List.length_drop]
    omega

/-- A read of `LINKSTATE` changes the environment only (rule R40). -/
theorem State.drawLink_eq (s : State) : ∃ e, s.drawLink.2 = s.setEnv e ∧ InputsRead 1 0 0 s.env e := by
  unfold State.drawLink
  split
  · rename_i h
    exact ⟨_, rfl, rfl, rfl, by simp [h], rfl, rfl, Nat.le_refl _, fun _ => rfl, by simp [h]⟩
  · rename_i h
    exact ⟨_, rfl, rfl, rfl, by simp [h, Env.countFree], rfl, rfl, Nat.le_refl _, fun _ => rfl,
      by simp [h, Env.countFree]⟩

/-- A read of `STATUS` changes the environment only (rule R41). -/
theorem State.drawStatus_eq (s : State) : ∃ e, s.drawStatus.2 = s.setEnv e ∧ InputsRead 0 1 0 s.env e := by
  unfold State.drawStatus
  split
  · rename_i h
    exact ⟨_, rfl, rfl, rfl, rfl, by simp [h], rfl, Nat.le_refl _, fun _ => rfl, by simp [h]⟩
  · rename_i h
    exact ⟨_, rfl, rfl, rfl, rfl, by simp [h, Env.countFree], rfl, Nat.le_refl _, fun _ => rfl,
      by simp [h, Env.countFree]⟩

/-- A read of `TIMER` changes the environment only, gives the new reading, and never goes back (rule R42). -/
theorem State.drawTimer_eq (s : State) : ∃ e, s.drawTimer.2 = s.setEnv e ∧ s.drawTimer.1 = e.timer ∧
    InputsRead 0 0 1 s.env e := by
  unfold State.drawTimer
  split
  · rename_i h
    exact ⟨_, rfl, rfl, rfl, rfl, rfl, rfl, by simp [h], Nat.le_add_right .., fun ht => absurd ht (by decide),
      by simp [h]⟩
  · rename_i h
    exact ⟨_, rfl, rfl, rfl, rfl, rfl, rfl, by simp [h, Env.countFree], Nat.le_add_right ..,
      fun ht => absurd ht (by decide), by simp [h, Env.countFree]⟩

/-- A reading of the timer advances it by what the environment has scripted (rule R42). -/
theorem drawTimer_head (s : State) : ∀ d ∈ s.env.timerDraws.head?, s.drawTimer.1 = s.env.timer + d := by
  intro d hd
  unfold State.drawTimer
  split <;> simp_all

/-! ## The guard and the end of a command -/

/-- What the guard can do: in range, the command; else the fault (log 15). -/
theorem guardPointers_next {s t : State} {k : Host.Outcome State Fault Refusal} :
    guardPointers s k = .next t ↔ s.pointersInRange = true ∧ k = .next t := by
  unfold guardPointers
  split <;> simp_all

@[simp] theorem guardPointers_true {s : State} (h : s.pointersInRange = true) (k : Host.Outcome State Fault Refusal) :
    guardPointers s k = k := if_pos h

/-- A completed command is its body's state with the code in `RESULT`. -/
theorem complete_next {r : State × Code} {t : State} : complete r = .next t ↔ t = r.1.raise r.2 := by
  unfold complete
  constructor
  · intro h; injection h with h; exact h.symm
  · rintro rfl; rfl

end Sys2Proof.Machine
end

