-- ==== Sys2Proof/Laws/Validator.lean ====
section
/-! SUPPORT. The classifier writes one entry of the failure table and nothing else; the bits of a verdict; the
default checksum is linear. -/

namespace Sys2Proof.Machine

open Sys2Proof

variable {crc : List Byte → Byte}

/-! ## Bits -/

/-- A failure's mask has that failure's bit and no other, where its condition holds. -/
theorem Failure.getLsbD_maskIf (f : Failure) (b : Bool) (k : Nat) :
    (f.maskIf b).getLsbD k = (b && decide (k = f.bit)) := by
  by_cases hk : k < 16
  · have h : ∀ n : Fin 16, (f.maskIf b).getLsbD n.val = (b && decide (n.val = f.bit)) := by
      cases f <;> cases b <;> decide
    exact h ⟨k, hk⟩
  · rw [BitVec.getLsbD_of_ge _ _ (by omega)]
    have : f.bit < 16 := by cases f <;> decide
    have : decide (k = f.bit) = false := decide_eq_false (by omega)
    simp [this]

/-- The failure's mask is its mask where the condition is true. -/
theorem Failure.maskIf_true (f : Failure) : f.maskIf true = f.mask := rfl

theorem getLsbD_classifiedBit (k : Nat) : classifiedBit.getLsbD k = decide (k = 0) := by
  by_cases hk : k < 16
  · have h : ∀ n : Fin 16, classifiedBit.getLsbD n.val = decide (n.val = 0) := by decide
    exact h ⟨k, hk⟩
  · rw [BitVec.getLsbD_of_ge _ _ (by omega), eq_comm, decide_eq_false_iff_not]
    omega

/-! ## The verdict -/

/-- The verdict of a packet of bad length. -/
theorem verdict_of_bad {s : State} {d : RxDesc} {p : List Byte} (h : lengthClass d.len.toNat = .bad) :
    verdict crc s d p = classifiedBit ||| Failure.eep.maskIf d.eep ||| Failure.trunc.maskIf d.trunc |||
      Failure.len.maskIf true := by
  simp only [verdict, h, Failure.maskIf_true]

/-- The verdict of a packet of good length. -/
theorem verdict_of_good {s : State} {d : RxDesc} {p : List Byte} (h : lengthClass d.len.toNat ≠ .bad) :
    verdict crc s d p = classifiedBit ||| Failure.eep.maskIf d.eep ||| Failure.trunc.maskIf d.trunc |||
      Failure.crc.maskIf (!checkCrc crc p (lengthClass d.len.toNat)) |||
      checkRmapHeader s.regs.srcAddr s.regs.destAddr p d.len.toNat (lengthClass d.len.toNat) := by
  cases hc : lengthClass d.len.toNat with
  | bad => exact absurd hc h
  | writeReply => simp only [verdict, hc]
  | readReply => simp only [verdict, hc]

/-- The verdict depends on the checksum, the two addresses, the descriptor and the packet. -/
theorem verdict_congr {s s' : State} (hs : s'.regs.srcAddr = s.regs.srcAddr)
    (hd : s'.regs.destAddr = s.regs.destAddr) (d : RxDesc) (p : List Byte) : verdict crc s' d p = verdict crc s d p := by
  unfold verdict
  rw [hs, hd]

/-- A verdict says that the slot is classified (rule R243). -/
theorem verdict_classified (s : State) (d : RxDesc) (p : List Byte) : (verdict crc s d p).getLsbD 0 = true := by
  by_cases h : lengthClass d.len.toNat = .bad
  · simp only [verdict_of_bad h, BitVec.getLsbD_or, getLsbD_classifiedBit, decide_true, Bool.true_or]
  · simp only [verdict_of_good h, BitVec.getLsbD_or, getLsbD_classifiedBit, decide_true, Bool.true_or]

/-- Bits 15:12 of a verdict are 0 (rule R256). -/
theorem verdict_reserved (s : State) (d : RxDesc) (p : List Byte) (k : Nat) (hk : 12 ≤ k) :
    (verdict crc s d p).getLsbD k = false := by
  have hb : ∀ f : Failure, decide (k = f.bit) = false := by
    intro f
    have : f.bit < 12 := by cases f <;> decide
    exact decide_eq_false (by omega)
  have h0 : decide (k = 0) = false := decide_eq_false (by omega)
  by_cases h : lengthClass d.len.toNat = .bad
  · simp only [verdict_of_bad h, BitVec.getLsbD_or, getLsbD_classifiedBit, Failure.getLsbD_maskIf, hb, h0,
      Bool.and_false, Bool.or_false]
  · simp only [verdict_of_good h, checkRmapHeader, BitVec.getLsbD_or, getLsbD_classifiedBit,
      Failure.getLsbD_maskIf, hb, h0, Bool.and_false, Bool.or_false]

/-! ## classify -/

/-- `classify` changes the failure table only (rule R240). -/
theorem classify_eq (i : Nat) (s : State) : classify crc i s = { s with ft := (classify crc i s).ft } := by
  unfold classify
  split
  · rfl
  · split <;> rfl

@[simp] theorem classify_cfg (i : Nat) (s : State) : (classify crc i s).cfg = s.cfg := by rw [classify_eq]
@[simp] theorem classify_regs (i : Nat) (s : State) : (classify crc i s).regs = s.regs := by rw [classify_eq]
@[simp] theorem classify_args (i : Nat) (s : State) : (classify crc i s).args = s.args := by rw [classify_eq]
@[simp] theorem classify_res (i : Nat) (s : State) : (classify crc i s).res = s.res := by rw [classify_eq]
@[simp] theorem classify_tx (i : Nat) (s : State) : (classify crc i s).tx = s.tx := by rw [classify_eq]
@[simp] theorem classify_rx (i : Nat) (s : State) : (classify crc i s).rx = s.rx := by rw [classify_eq]
@[simp] theorem classify_arena (i : Nat) (s : State) : (classify crc i s).arena = s.arena := by rw [classify_eq]
@[simp] theorem classify_ctx (i : Nat) (s : State) : (classify crc i s).ctx = s.ctx := by rw [classify_eq]
@[simp] theorem classify_hostMem (i : Nat) (s : State) : (classify crc i s).hostMem = s.hostMem := by rw [classify_eq]
@[simp] theorem classify_portReg (i : Nat) (s : State) : (classify crc i s).portReg = s.portReg := by rw [classify_eq]
@[simp] theorem classify_events (i : Nat) (s : State) : (classify crc i s).events = s.events := by rw [classify_eq]
@[simp] theorem classify_wire (i : Nat) (s : State) : (classify crc i s).wire = s.wire := by rw [classify_eq]
@[simp] theorem classify_seq (i : Nat) (s : State) : (classify crc i s).seq = s.seq := by rw [classify_eq]
@[simp] theorem classify_env (i : Nat) (s : State) : (classify crc i s).env = s.env := by rw [classify_eq]
@[simp] theorem classify_txAt (i : Nat) (s : State) (x : Nat) : (classify crc i s).txAt x = s.txAt x := by rw [classify_eq]; rfl
@[simp] theorem classify_rxAt (i : Nat) (s : State) (x : Nat) : (classify crc i s).rxAt x = s.rxAt x := by rw [classify_eq]; rfl
@[simp] theorem classify_ctxAt (i : Nat) (s : State) (x : Nat) : (classify crc i s).ctxAt x = s.ctxAt x := by rw [classify_eq]; rfl
@[simp] theorem classify_cookieValid (i : Nat) (s : State) (x : Nat) : (classify crc i s).cookieValid x = s.cookieValid x := by rw [classify_eq]; rfl
@[simp] theorem classify_pkt (i : Nat) (s : State) (x : Nat) : (classify crc i s).pkt x = s.pkt x := by rw [classify_eq]; rfl
@[simp] theorem classify_bound (i : Nat) (s : State) : (classify crc i s).bound = s.bound := by rw [classify_eq]; rfl
@[simp] theorem classify_pointersInRange (i : Nat) (s : State) : (classify crc i s).pointersInRange = s.pointersInRange := by rw [classify_eq]; rfl
@[simp] theorem classify_ft_length (i : Nat) (s : State) : (classify crc i s).ft.length = s.ft.length := by
  unfold classify
  split
  · rfl
  · split
    · simp
    · rfl

/-- The entries after `classify` (rules R241, R242, R256). -/
theorem classify_ftAt (i : Nat) (s : State) (j : Nat) :
    (classify crc i s).ftAt j = if j = i ∧ i < s.ft.length then entryAfter crc s i else s.ftAt j := by
  unfold classify entryAfter entryClassified
  by_cases h1 : (s.ftAt i).getLsbD 0 = true
  · rw [if_pos h1, if_pos h1]
    split
    · rename_i h; rw [h.1]
    · rfl
  · rw [if_neg h1, if_neg h1]
    by_cases h2 : (s.rxAt i).ready = true
    · rw [if_pos h2, if_pos h2, State.ftAt_setFt]
    · rw [if_neg h2, if_neg h2]
      split
      · rename_i h; rw [h.1]
      · rfl

/-- What an entry will be does not depend on which slots have been classified already. -/
@[simp] theorem entryAfter_classify (i : Nat) (s : State) (j : Nat) :
    entryAfter crc (classify crc i s) j = entryAfter crc s j := by
  have hv : ∀ d p, verdict crc (classify crc i s) d p = verdict crc s d p := verdict_congr (by simp) (by simp)
  by_cases hj : j = i ∧ i < s.ft.length
  · have he : (classify crc i s).ftAt j = entryAfter crc s j := by rw [classify_ftAt, if_pos hj, hj.1]
    rw [entryAfter, he]
    simp only [classify_rxAt, classify_pkt, hv]
    by_cases h1 : (s.ftAt j).getLsbD 0 = true
    · have : entryAfter crc s j = s.ftAt j := if_pos h1
      rw [this, if_pos h1]
    · by_cases h2 : (s.rxAt j).ready = true
      · have : entryAfter crc s j = verdict crc s (s.rxAt j) (s.pkt j) := by rw [entryAfter, if_neg h1, if_pos h2]
        rw [this, if_pos (verdict_classified ..)]
      · have : entryAfter crc s j = s.ftAt j := by rw [entryAfter, if_neg h1, if_neg h2]
        rw [this, if_neg h1, if_neg h2]
  · rw [entryAfter, entryAfter, classify_ftAt, if_neg hj]
    simp only [classify_rxAt, classify_pkt, hv]

/-! ## The default checksum -/

theorem xor_swap {w : Nat} (a b x y : BitVec w) : (a ^^^ b) ^^^ (x ^^^ y) = (a ^^^ x) ^^^ (b ^^^ y) := by
  rw [BitVec.xor_assoc, ← BitVec.xor_assoc b x y, BitVec.xor_comm b x, BitVec.xor_assoc x b y, ← BitVec.xor_assoc]

theorem crc8Bit_eq (c : Byte) : crc8Bit c = (c >>> 1) ^^^ (if c.getLsbD 0 then 0xE0#8 else 0#8) := by
  unfold crc8Bit
  split <;> simp_all

theorem crc8Bit_xor (a b : Byte) : crc8Bit (a ^^^ b) = crc8Bit a ^^^ crc8Bit b := by
  simp only [crc8Bit_eq, BitVec.getLsbD_xor, BitVec.ushiftRight_xor_distrib]
  rw [xor_swap]
  congr 1
  cases a.getLsbD 0 <;> cases b.getLsbD 0 <;> decide

theorem crc8Bits_xor (n : Nat) : ∀ a b : Byte, crc8Bits n (a ^^^ b) = crc8Bits n a ^^^ crc8Bits n b := by
  induction n with
  | zero => intro a b; rfl
  | succ n ih => intro a b; simp only [crc8Bits, crc8Bit_xor, ih]

theorem crc8Bits_eq_zero : ∀ c : Byte, crc8Bits 8 c = 0 → c = 0 := by decide

theorem crc8Step_zero : crc8Step 0 0 = 0 := by decide

/-- One byte of the checksum, at two register values and two bytes. -/
theorem crc8Step_xor (a b x y : Byte) : crc8Step (a ^^^ b) (x ^^^ y) = crc8Step a x ^^^ crc8Step b y := by
  unfold crc8Step
  rw [← crc8Bits_xor, xor_swap]

/-- The register is 0 after a byte equal to it. -/
theorem crc8Step_self (c : Byte) : crc8Step c c = 0 := by
  unfold crc8Step
  rw [BitVec.xor_self]
  decide

/-- The register is 0 after a byte only if the byte equals it. -/
theorem crc8Step_eq_zero {c b : Byte} (h : crc8Step c b = 0) : c = b := by
  exact BitVec.xor_eq_zero_iff.1 (crc8Bits_eq_zero _ h)

/-! ## Checksums computed byte by byte -/

section
variable {step : Byte → Byte → Byte}

/-- Two register values stay different over the same bytes. -/
theorem foldl_ne (hc : ∀ a b x, step a x = step b x → a = b) :
    ∀ (m : List Byte) {a b : Byte}, a ≠ b → m.foldl step a ≠ m.foldl step b
  | [], _, _, h => h
  | x :: m, a, b, h => foldl_ne hc m fun he => h (hc a b x he)

/-- One changed byte changes the register at the end. -/
theorem foldl_ne_of_oneByteChanged (hc : ∀ a b x, step a x = step b x → a = b)
    (hb : ∀ a x y, step a x = step a y → x = y) {p q : List Byte} (h : OneByteChanged p q) (a : Byte) :
    q.foldl step a ≠ p.foldl step a := by
  obtain ⟨k, v, hk, hv, rfl⟩ := h
  have hp : p = p.take k ++ p.getD k 0 :: p.drop (k + 1) := by simp [List.getElem?_eq_getElem hk]
  have hq : p.set k v = p.take k ++ v :: p.drop (k + 1) := List.set_eq_take_append_cons_drop.trans (if_pos hk)
  rw [hq]
  conv => rhs; rw [hp]
  rw [List.foldl_append, List.foldl_append]
  exact foldl_ne hc _ fun he => hv (hb _ _ _ he).symm

/-- A checksum computed byte by byte from the register value 0 has the laws of rule R261 when a byte equal to the
register clears it, and neither two registers nor two bytes lead to one value. -/
theorem CrcLaws.of_foldl (hz : ∀ c, step c c = 0) (hc : ∀ a b x, step a x = step b x → a = b)
    (hb : ∀ a x y, step a x = step a y → x = y) : CrcLaws fun m => m.foldl step 0 where
  residue m := by rw [List.foldl_append]; exact hz _
  chaining a b ha := by rw [List.foldl_append, ha]
  writeReply p q h _ hp hq := foldl_ne_of_oneByteChanged hc hb h 0 (hq.trans hp.symm)
  readReply p q h _ _ hp hq := foldl_ne_of_oneByteChanged hc hb h 0 (hq.2.trans hp.symm)

end

end Sys2Proof.Machine
end

