-- ==== Sys2Proof/Laws/Channel.lean ====
section
/-! SUPPORT. What the steps of a channel reset, the port commands and the active check can do, said once. -/

namespace Sys2Proof.Machine

open Sys2Proof

variable {crc : List Byte → Byte}

/-! ## Steps 1 to 3 (rules R151 to R153) -/

/-- The events steps 1 and 2 emit for a bound port. -/
def portEvents (s : State) (link : BitVec 3) (status : Word) : List Event :=
  (if linkRun link then [] else [⟨.linkDown, s.regs.portNumber⟩]) ++ statusEvents s.regs.portNumber status

theorem drawLink_eq_setEnv (s : State) : s.drawLink.2 = s.setEnv s.drawLink.2.env := by
  unfold State.drawLink; split <;> rfl

theorem drawStatus_eq_setEnv (s : State) : s.drawStatus.2 = s.setEnv s.drawStatus.2.env := by
  unfold State.drawStatus; split <;> rfl

theorem drawLink_head (s : State) : ∀ v ∈ s.env.linkDraws.head?, s.drawLink.1 = v := by
  intro v hv
  unfold State.drawLink
  split <;> simp_all

theorem drawStatus_head (s : State) : ∀ v ∈ s.env.statusDraws.head?, s.drawStatus.1 = v := by
  intro v hv
  unfold State.drawStatus
  split <;> simp_all

theorem drawLink_statusDraws (s : State) : s.drawLink.2.env.statusDraws = s.env.statusDraws := by
  unfold State.drawLink; split <;> rfl

theorem emitAll_emitAll (s : State) (a b : List Event) : (s.emitAll a).emitAll b = s.emitAll (a ++ b) := by
  simp [State.emitAll, List.append_assoc]

theorem emitAll_setEnv (s : State) (a : List Event) (e : Env) : (s.emitAll a).setEnv e = (s.setEnv e).emitAll a := rfl

@[simp] theorem emitAll_nil (s : State) : s.emitAll [] = s := by simp [State.emitAll]

/-- Step 1 reads `LINKSTATE` once and reports a link that does not run (rule R151). -/
theorem linkCheck_eq (s : State) : linkCheck s = (s.setEnv s.drawLink.2.env).emitAll
    (if linkRun s.drawLink.1 then [] else [⟨.linkDown, s.regs.portNumber⟩]) := by
  have h := drawLink_eq_setEnv s
  rcases hd : s.drawLink with ⟨link, s1⟩
  rw [hd] at h
  simp only [linkCheck, hd]
  dsimp only at h
  generalize s1.env = e at h ⊢
  rw [h]

/-- Step 2 reads `STATUS` once and reports its bits (rule R152). -/
theorem statusDecode_eq (s : State) : statusDecode s =
    (s.setEnv s.drawStatus.2.env).emitAll (statusEvents s.regs.portNumber s.drawStatus.1) := by
  have h := drawStatus_eq_setEnv s
  rcases hd : s.drawStatus with ⟨status, s1⟩
  rw [hd] at h
  simp only [statusDecode, hd]
  dsimp only at h
  generalize s1.env = e at h ⊢
  subst h
  rfl

/-- With no port bound steps 1 to 3 are skipped (rule R153). -/
theorem portSteps_of_unbound {s : State} (h : s.regs.port = 0xFF) : portSteps s = s := by
  have : s.bound = false := by simp [State.bound, noPort, h]
  simp [portSteps, this]

/-- With a port bound steps 1 to 3 read the link state and the status once each, in that order, and report them. -/
theorem portSteps_of_bound {s : State} (h : s.regs.port ≠ 0xFF) : ∃ link status e,
    portSteps s = (s.setEnv e).emitAll (portEvents s link status) ∧
    (∀ v ∈ s.env.linkDraws.head?, link = v) ∧ (∀ v ∈ s.env.statusDraws.head?, status = v) ∧
    InputsRead 1 1 0 s.env e := by
  have hb := (s.bound_iff).2 h
  obtain ⟨e1, h1, hi1⟩ := s.drawLink_eq
  obtain ⟨e2, h2, hi2⟩ := (linkCheck s).drawStatus_eq
  have hl := linkCheck_eq s
  have he1 : s.drawLink.2.env = e1 := by rw [h1]; rfl
  have hle : (linkCheck s).env = e1 := by rw [hl, ← he1]; rfl
  refine ⟨s.drawLink.1, (linkCheck s).drawStatus.1, e2, ?_, drawLink_head s, ?_, hi1.trans (hle ▸ hi2)⟩
  · have hs : portSteps s = statusDecode (linkCheck s) := by
      unfold portSteps
      rw [if_pos hb]
      rfl
    rw [hs, statusDecode_eq]
    have he2 : (linkCheck s).drawStatus.2.env = e2 := by rw [h2]; rfl
    rw [he2, show (linkCheck s).regs = s.regs by rw [hl]; rfl]
    generalize (linkCheck s).drawStatus.1 = status
    rw [hl, emitAll_setEnv, emitAll_emitAll]
    rfl
  · intro v hv
    refine drawStatus_head _ v ?_
    rw [hle, ← he1, drawLink_statusDraws]
    exact hv

/-! ## Step 4 (rule R154) -/

theorem trailingEnabled_le (s : State) : ∀ n, trailingEnabled s n ≤ n
  | 0 => Nat.le_refl 0
  | n + 1 => by
    have := trailingEnabled_le s n
    simp only [trailingEnabled]
    split <;> omega

theorem trailingEnabled_spec (s : State) : ∀ n,
    (∀ i, n - trailingEnabled s n ≤ i → i < n → (s.rxAt i).en = true) ∧
    (trailingEnabled s n < n → (s.rxAt (n - trailingEnabled s n - 1)).en = false)
  | 0 => ⟨fun i _ h => absurd h (Nat.not_lt_zero i), fun h => absurd h (Nat.lt_irrefl 0)⟩
  | n + 1 => by
    obtain ⟨h1, h2⟩ := trailingEnabled_spec s n
    have hle := trailingEnabled_le s n
    simp only [trailingEnabled]
    cases he : (s.rxAt n).en with
    | true =>
      simp only [↓reduceIte]
      refine ⟨fun i hi hn => ?_, fun hlt => ?_⟩
      · by_cases hin : i = n
        · rw [hin]; exact he
        · exact h1 i (by omega) (by omega)
      · have := h2 (by omega)
        rwa [show n + 1 - (trailingEnabled s n + 1) - 1 = n - trailingEnabled s n - 1 by omega]
    | false =>
      simp only [Bool.false_eq_true, ↓reduceIte]
      refine ⟨fun i hi hn => ?_, fun _ => ?_⟩
      · omega
      · simpa using he

/-- The count step 4 makes is the missed count. -/
theorem missedCount_missedReplies (s : State) : MissedCount s (missedReplies s) :=
  ⟨trailingEnabled_le s _, (trailingEnabled_spec s _).1, (trailingEnabled_spec s _).2⟩

/-- There is one missed count. -/
theorem MissedCount.unique {s : State} {m : Nat} (h : MissedCount s m) : missedReplies s = m := by
  obtain ⟨h1, h2, h3⟩ := h
  obtain ⟨g1, g2, g3⟩ := missedCount_missedReplies s
  rcases Nat.lt_trichotomy (missedReplies s) m with hlt | heq | hgt
  · have ha := g3 (by omega)
    have hb := h2 (s.regs.rxIndex - missedReplies s - 1) (by omega) (by omega)
    rw [ha] at hb; cases hb
  · exact heq
  · have ha := h3 (by omega)
    have hb := g2 (s.regs.rxIndex - m - 1) (by omega) (by omega)
    rw [ha] at hb; cases hb

theorem trailingEnabled_congr {s s' : State} (h : s'.rx = s.rx) : ∀ n, trailingEnabled s' n = trailingEnabled s n
  | 0 => rfl
  | n + 1 => by
    have hn : s'.rxAt n = s.rxAt n := by rw [State.rxAt, State.rxAt, h]
    rw [trailingEnabled, trailingEnabled, hn, trailingEnabled_congr h n]

theorem missedReplies_congr {s s' : State} (h : s'.rx = s.rx) (hr : s'.regs.rxIndex = s.regs.rxIndex) :
    missedReplies s' = missedReplies s := by
  rw [missedReplies, missedReplies, hr]; exact trailingEnabled_congr h _

theorem reportMissed_eq (s : State) : reportMissed s =
    s.emitAll (if missedReplies s = 0 then [] else [⟨.missedReplies, (missedReplies s : Int)⟩]) := by
  unfold reportMissed
  split
  · simp
  · rfl

/-- The link-down decision (rule R155). -/
theorem linkDeclaredDown_iff (s : State) : linkDeclaredDown s = true ↔
    1 < s.regs.rxIndex ∧ ∀ i, i < s.regs.rxIndex → (s.rxAt i).en = true := by
  obtain ⟨h1, h2, h3⟩ := missedCount_missedReplies s
  simp only [linkDeclaredDown, Bool.and_eq_true, beq_iff_eq, decide_eq_true_eq]
  constructor
  · rintro ⟨ha, hb⟩
    exact ⟨by omega, fun i hi => h2 i (by omega) hi⟩
  · rintro ⟨ha, hb⟩
    by_cases hm : missedReplies s = s.regs.rxIndex
    · exact ⟨hm, by omega⟩
    · have := h3 (by omega)
      rw [hb _ (by omega)] at this
      cases this

/-! ## Step 6 (rule R156) -/

theorem sweep_eq : ∀ (n : Nat) (s : State), (sweep crc n s).1 = { s with ft := (sweep crc n s).1.ft }
  | 0, _ => rfl
  | n + 1, s => by
    have h := sweep_eq n s
    simp only [sweep]
    split
    · exact h
    · have h2 := classify_eq (crc := crc) n (sweep crc n s).1
      generalize (sweep crc n s).1 = s1 at h h2 ⊢
      generalize s1.ft = f at h
      subst h
      exact h2

theorem sweep_ft_length : ∀ (n : Nat) (s : State), (sweep crc n s).1.ft.length = s.ft.length
  | 0, _ => rfl
  | n + 1, s => by
    simp only [sweep]
    split
    · exact sweep_ft_length n s
    · rw [classify_ft_length]; exact sweep_ft_length n s

theorem sweep_entryAfter : ∀ (n : Nat) (s : State) (j : Nat), entryAfter crc (sweep crc n s).1 j = entryAfter crc s j
  | 0, _, _ => rfl
  | n + 1, s, j => by
    simp only [sweep]
    split
    · exact sweep_entryAfter n s j
    · rw [entryAfter_classify]; exact sweep_entryAfter n s j

theorem sweep_ftAt : ∀ (n : Nat) (s : State) (j : Nat), n ≤ s.ft.length →
    (sweep crc n s).1.ftAt j = if j < n then entryAfter crc s j else s.ftAt j
  | 0, _, _, _ => rfl
  | n + 1, s, j, h => by
    have ih := fun j => sweep_ftAt n s j (by omega)
    have hn : (sweep crc n s).1.ftAt n = s.ftAt n := by rw [ih, if_neg (by omega)]
    simp only [sweep]
    split
    · rename_i hc
      rw [ih]
      by_cases hj : j < n
      · rw [if_pos hj, if_pos (by omega)]
      · rw [if_neg hj]
        by_cases hjn : j = n
        · subst hjn
          rw [if_pos (by omega)]
          have : (s.ftAt j).getLsbD 0 = true := by rw [hn] at hc; exact hc
          rw [entryAfter, if_pos this]
        · rw [if_neg (by omega)]
    · rw [classify_ftAt, sweep_ft_length, sweep_entryAfter, ih]
      by_cases hj : j = n
      · subst hj; rw [if_pos ⟨rfl, by omega⟩, if_pos (by omega)]
      · rw [if_neg (fun hc => hj hc.1)]
        by_cases hlt : j < n
        · rw [if_pos hlt, if_pos (by omega)]
        · rw [if_neg hlt, if_neg (by omega)]

/-- The failures the sweep gathers: those of the slots it classifies. -/
theorem sweep_bits (f : Failure) : ∀ (n : Nat) (s : State), n ≤ s.ft.length →
    (sweep crc n s).2.getLsbD f.bit =
      (List.range n).any fun i => !(s.ftAt i).getLsbD 0 && (entryAfter crc s i).getLsbD f.bit
  | 0, _, _ => by simp [sweep]
  | n + 1, s, h => by
    have ih := sweep_bits f n s (by omega)
    have hn : (sweep crc n s).1.ftAt n = s.ftAt n := by rw [sweep_ftAt n s n (by omega), if_neg (by omega)]
    rw [List.range_succ, List.any_append, ← ih]
    simp only [sweep]
    by_cases hc : (s.ftAt n).getLsbD 0 = true
    · rw [if_pos (by rw [hn]; exact hc)]
      simp only [List.any_cons, List.any_nil, hc, Bool.not_true, Bool.false_and, Bool.or_false]
    · rw [if_neg (by rw [hn]; exact hc)]
      have hb : failureBits.getLsbD f.bit = true := by cases f <;> decide
      have hc' : (s.ftAt n).getLsbD 0 = false := by simpa only [Bool.not_eq_true] using hc
      simp only [BitVec.getLsbD_or, BitVec.getLsbD_and, hb, Bool.and_true, List.any_cons, List.any_nil, hc',
        Bool.not_false, Bool.true_and, Bool.or_false]
      rw [classify_ftAt, sweep_ft_length, if_pos ⟨rfl, by omega⟩, sweep_entryAfter]

theorem failureEvents_eq {s : State} (h : s.regs.rxIndex ≤ s.ft.length) :
    failureEvents (sweep crc s.regs.rxIndex s).2 = (Failure.all.filter (newlyFailed crc s)).map fun f => ⟨.rxFailure f, 0⟩ := by
  unfold failureEvents
  congr 2
  funext f
  rw [sweep_bits f _ s h]
  rfl

theorem classificationSweep_eq (s : State) : classificationSweep crc s =
    { s with ft := (sweep crc s.regs.rxIndex s).1.ft, events := s.events ++ failureEvents (sweep crc s.regs.rxIndex s).2 } := by
  have h := sweep_eq (crc := crc) s.regs.rxIndex s
  simp only [classificationSweep]
  generalize (sweep crc s.regs.rxIndex s).1 = s1 at h ⊢
  generalize s1.ft = f at h ⊢
  subst h
  rfl

/-! ## The reset as a whole (rule R150) -/

theorem newlyFailed_congr {s s' : State} (h1 : s'.regs.rxIndex = s.regs.rxIndex)
    (hs : s'.regs.srcAddr = s.regs.srcAddr) (hd : s'.regs.destAddr = s.regs.destAddr) (h2 : s'.ft = s.ft) (h3 : s'.rx = s.rx)
    (h4 : s'.arena = s.arena) : newlyFailed crc s' = newlyFailed crc s := by
  funext f
  unfold newlyFailed entryAfter State.ftAt State.rxAt State.pkt State.rxAt
  simp only [h1, h2, h3, h4, verdict_congr hs hd]

/-- Everything after the port steps. -/
theorem resetBody_of_portSteps {s : State} {e : Env} {es : List Event} (hp : portSteps s = (s.setEnv e).emitAll es)
    (hf : s.regs.rxIndex ≤ s.ft.length) :
    resetBody crc s = ({ cleared s with
        events := s.events ++ (es ++ (if missedReplies s = 0 then [] else [⟨.missedReplies, (missedReplies s : Int)⟩]) ++
          (Failure.all.filter (newlyFailed crc s)).map fun f => ⟨.rxFailure f, 0⟩)
        env := e },
      if linkDeclaredDown s then .linkDown else .ok) := by
  have hm : missedReplies ((s.setEnv e).emitAll es) = missedReplies s := missedReplies_congr rfl rfl
  have hd : linkDeclaredDown ((s.setEnv e).emitAll es) = linkDeclaredDown s := by
    simp only [linkDeclaredDown, hm]; rfl
  simp only [resetBody, hp, State.sync_eq, hd, reportMissed_eq, hm, classificationSweep_eq]
  have hn : ∀ s', s'.regs = s.regs → s'.ft = s.ft → s'.rx = s.rx → s'.arena = s.arena →
      failureEvents (sweep crc s'.regs.rxIndex s').2 =
        (Failure.all.filter (newlyFailed crc s)).map fun f => ⟨.rxFailure f, 0⟩ := by
    intro s' h1 h2 h3 h4
    rw [failureEvents_eq (by rw [h1, h2]; exact hf), newlyFailed_congr (by rw [h1]) (by rw [h1]) (by rw [h1]) h2 h3 h4]
  rw [hn (((s.setEnv e).emitAll es).emitAll
    (if missedReplies s = 0 then [] else [⟨.missedReplies, (missedReplies s : Int)⟩])) rfl rfl rfl rfl]
  simp only [clearRings, cleared, State.emitAll, State.setEnv, TxDesc.zero, RxDesc.zero, List.append_assoc]

/-- What a channel reset leaves unchanged and what it clears, whatever it reports (rules R157, R392). -/
theorem resetBody_frame (s : State) : ∃ es e code, resetBody crc s =
      ({ cleared s with events := s.events ++ es, env := e }, code) ∧
    (code = .ok ∨ code = .linkDown) ∧ e.agenda = s.env.agenda ∧ e.timer = s.env.timer ∧
    e.readData = s.env.readData := by
  have hp : ∃ es e, portSteps s = (s.setEnv e).emitAll es ∧ e.agenda = s.env.agenda ∧ e.timer = s.env.timer ∧
      e.readData = s.env.readData := by
    by_cases h : s.regs.port = 0xFF
    · exact ⟨[], s.env, by rw [portSteps_of_unbound h]; simp [State.setEnv], rfl, rfl, rfl⟩
    · obtain ⟨l, w, e, h1, -, -, hi⟩ := portSteps_of_bound h
      exact ⟨_, e, h1, hi.agenda, hi.timerUnread rfl, hi.readData⟩
  obtain ⟨es, e, h1, h2, h3, h4⟩ := hp
  refine ⟨es ++ ((if missedReplies ((s.setEnv e).emitAll es) = 0 then []
      else [⟨.missedReplies, (missedReplies ((s.setEnv e).emitAll es) : Int)⟩]) ++
      failureEvents (sweep crc s.regs.rxIndex (((s.setEnv e).emitAll es).emitAll (if missedReplies ((s.setEnv e).emitAll es) = 0 then []
      else [⟨.missedReplies, (missedReplies ((s.setEnv e).emitAll es) : Int)⟩]))).2), e,
    if linkDeclaredDown ((s.setEnv e).emitAll es) then .linkDown else .ok, ?_, ?_, h2, h3, h4⟩
  · simp only [resetBody, h1, State.sync_eq, reportMissed_eq, classificationSweep_eq]
    simp only [clearRings, cleared, State.emitAll, State.setEnv, TxDesc.zero, RxDesc.zero, List.append_assoc]
  · split
    · exact .inr rfl
    · exact .inl rfl

/-- A channel reset with its events (rules R150 to R157, R363). -/
theorem resetBody_events {s : State} {m : Nat} (hf : s.regs.rxIndex ≤ s.ft.length) (hm : MissedCount s m) :
    ∃ link status e, resetBody crc s =
      ({ cleared s with events := s.events ++ resetEvents crc s link status m, env := e },
        if linkDeclaredDown s then .linkDown else .ok) ∧
      (s.regs.port = 0xFF → e = s.env) ∧
      (s.regs.port ≠ 0xFF → InputsRead 1 1 0 s.env e ∧
        (∀ v ∈ s.env.linkDraws.head?, link = v) ∧ (∀ v ∈ s.env.statusDraws.head?, status = v)) := by
  have hmm := hm.unique
  by_cases h : s.regs.port = 0xFF
  · have hp : portSteps s = (s.setEnv s.env).emitAll [] := by rw [portSteps_of_unbound h]; simp [State.setEnv]
    refine ⟨0, 0, s.env, ?_, fun _ => rfl, fun hc => absurd h hc⟩
    rw [resetBody_of_portSteps hp hf, hmm]
    simp only [resetEvents, h, ↓reduceIte]
  · obtain ⟨link, status, e, h1, h2, h3, h4⟩ := portSteps_of_bound h
    refine ⟨link, status, e, ?_, fun hc => absurd hc h, fun _ => ⟨h4, h2, h3⟩⟩
    rw [resetBody_of_portSteps h1 hf, hmm]
    simp only [resetEvents, if_neg h, portEvents, statusEvents, linkRun, beq_iff_eq, Regs.portNumber, statusBits,
      dmaErrorBits, List.append_assoc]
    rfl

/-- A channel reset of empty rings finds no missed reply. -/
theorem resetBody_code_of_empty {s : State} (h : s.regs.rxIndex = 0) : linkDeclaredDown s = false := by
  rw [← Bool.not_eq_true, linkDeclaredDown_iff]
  omega

theorem missedCount_zero {s : State} (h : s.regs.rxIndex = 0) : MissedCount s 0 :=
  ⟨Nat.zero_le _, fun i _ hi => by omega, fun hi => by omega⟩

/-- A channel reset of empty rings answers `OK` (rule R167). -/
theorem resetBody_ok_of_empty {s : State} (h : s.regs.rxIndex = 0) : (resetBody crc s).2 = .ok := by
  obtain ⟨link, status, e, hb, -⟩ := resetBody_events (by omega) (missedCount_zero h)
  rw [hb, resetBody_code_of_empty h]
  rfl

/-! ## The port commands (rules R163, R167) -/

/-- The port commands after their validations: what they leave, whatever the resets report. -/
theorem setPortBody_cases {port : Int} {dest src : Byte} {s t : State} (h : setPortBody crc port dest src s = .next t) :
    (∃ code, portRefusal s.cfg port = some code ∧ t = s.raise code) ∨
    (port = -1 ∧ s.pointersInRange = true ∧ ∃ es e, t = { cleared s with
        regs := { s.regs with
          port := 0xFF
          hkPort := if s.cfg.hasHkMirror then 0xFF else s.regs.hkPort
          txIndex := 0, rxIndex := 0, arenaPtr := 0 }
        res := { s.res with result := 0x0000 }
        events := s.events ++ es
        env := e } ∧ e.agenda = s.env.agenda ∧ e.timer = s.env.timer ∧ e.readData = s.env.readData) ∨
    (0 ≤ port ∧ port < (s.cfg.nPorts : Int) ∧ s.pointersInRange = true ∧ ∃ es e, t = { cleared s with
        regs := { s.regs with
          port := BitVec.ofInt 8 port, destAddr := dest, srcAddr := src
          hkPort := if s.cfg.hasHkMirror then BitVec.ofInt 8 port else s.regs.hkPort
          txIndex := 0, rxIndex := 0, arenaPtr := 0 }
        portReg := s.portReg.set port.toNat ⟨s.cfg.maxPacketLen, src⟩
        res := { s.res with result := 0x0000 }
        events := s.events ++ es
        env := e } ∧ e.agenda = s.env.agenda ∧ e.timer = s.env.timer ∧ e.readData = s.env.readData) := by
  unfold setPortBody at h
  cases hr : portRefusal s.cfg port with
  | some code =>
    rw [hr] at h
    exact .inl ⟨code, rfl, complete_next.1 h⟩
  | none =>
    rw [hr] at h
    obtain ⟨hp, h⟩ := guardPointers_next.1 h
    have ht := complete_next.1 h
    have hm : mirrorPort port (s.emit .portSwitch port) = { s with
        events := s.events ++ [⟨.portSwitch, port⟩]
        regs := { s.regs with hkPort := if s.cfg.hasHkMirror then portByte port else s.regs.hkPort } } := by
      unfold mirrorPort
      cases hk : s.cfg.hasHkMirror <;> simp [hk, State.emit, State.emitAll, State.setRegs]
    have hl : ∃ es e, leavePort crc port s = { cleared s with
          events := s.events ++ es
          env := e
          regs := { s.regs with
            hkPort := if s.cfg.hasHkMirror then portByte port else s.regs.hkPort
            txIndex := 0, rxIndex := 0, arenaPtr := 0 } } ∧
        e.agenda = s.env.agenda ∧ e.timer = s.env.timer ∧ e.readData = s.env.readData := by
      obtain ⟨es, e, code, h1, -, h2, h3, h4⟩ := resetBody_frame (mirrorPort port (s.emit .portSwitch port))
      refine ⟨[⟨.portSwitch, port⟩] ++ es, e, ?_, by rw [h2, hm], by rw [h3, hm], by rw [h4, hm]⟩
      rw [leavePort, h1, hm]
      simp only [cleared, List.append_assoc]
    obtain ⟨es, e, hl, hl1, hl2, hl3⟩ := hl
    by_cases h1 : port = -1
    · refine .inr (.inl ⟨h1, hp, es, e, ?_, hl1, hl2, hl3⟩)
      subst h1
      rw [ht, if_pos rfl, deactivate, hl]
      rfl
    · have h2 : 0 ≤ port ∧ port < (s.cfg.nPorts : Int) := by
        unfold portRefusal at hr
        rw [if_neg h1] at hr
        split at hr
        · cases hr
        · omega
      refine .inr (.inr ⟨h2.1, h2.2, hp, ?_⟩)
      obtain ⟨es', e', code, g1, -, g2, g3, g4⟩ := resetBody_frame (bindPort port dest src (leavePort crc port s))
      have hc : (bindPort port dest src (leavePort crc port s)).regs.rxIndex = 0 := by rw [hl]; rfl
      have hcode := resetBody_ok_of_empty (crc := crc) hc
      refine ⟨es ++ es', e', ?_, ?_, ?_, ?_⟩
      · rw [ht, if_neg h1, rebind]
        rw [g1] at hcode ⊢
        dsimp only at hcode
        subst hcode
        rw [hl]
        simp only [cleared, bindPort, State.setRegs, State.setPortReg, State.raise, portByte, Code.toHalf,
          List.append_assoc]
      · rw [g2, hl]; exact hl1
      · rw [g3, hl]; exact hl2
      · rw [g4, hl]; exact hl3

/-! ## The active check (rule R158) -/

theorem activeBody_cases (s : State) : (s.regs.port = 0xFF ∧ activeBody s = (s, .commandChannelDeactivated)) ∨
    (s.regs.port ≠ 0xFF ∧ ∃ link e, activeBody s = (s.setEnv e, if link = 5 then .ok else .linkDown) ∧
      (∀ v ∈ s.env.linkDraws.head?, link = v) ∧ InputsRead 1 0 0 s.env e) := by
  by_cases h : s.regs.port = 0xFF
  · have : s.bound = false := by simp [State.bound, noPort, h]
    exact .inl ⟨h, by simp [activeBody, this]⟩
  · have hb := (s.bound_iff).2 h
    obtain ⟨e, h1, hi⟩ := s.drawLink_eq
    refine .inr ⟨h, s.drawLink.1, e, ?_, drawLink_head s, hi⟩
    simp only [activeBody, hb, ↓reduceIte, h1, linkRun, beq_iff_eq]

end Sys2Proof.Machine
end

