-- ==== Sys2Proof/Laws/Encoding.lean ====
section
/-! SUPPORT. The fields of a command word, and the operand conversions at the values that fit. -/

namespace Sys2Proof

/-- A command word as a number (rule R101). -/
theorem commandWord_toNat (op c imm : Byte) :
    (commandWord op c imm).toNat = imm.toNat * 65536 + c.toNat * 256 + op.toNat := by
  have h : (commandWord op c imm).toNat = ((((0 : Byte) ++ imm) ++ c) ++ op : BitVec (8 + 8 + 8 + 8)).toNat := rfl
  rw [h]
  have h1 := op.isLt
  have h2 := c.isLt
  have h3 := imm.isLt
  simp only [BitVec.toNat_append, Nat.shiftLeft_eq]
  have z : (0 : Byte).toNat = 0 := rfl
  rw [z, Nat.zero_mul, Nat.zero_or]
  have e2 : imm.toNat * 2 ^ 8 ||| c.toNat = imm.toNat * 2 ^ 8 + c.toNat := by
    rw [Nat.mul_comm, ← Nat.two_pow_add_eq_or_of_lt h2]
  rw [e2]
  have e3 : (imm.toNat * 2 ^ 8 + c.toNat) * 2 ^ 8 ||| op.toNat = (imm.toNat * 2 ^ 8 + c.toNat) * 2 ^ 8 + op.toNat := by
    rw [Nat.mul_comm, ← Nat.two_pow_add_eq_or_of_lt h1]
  rw [e3]
  omega

section
variable (op c imm : Byte)

@[simp] theorem opField_commandWord : opField (commandWord op c imm) = op := by
  apply BitVec.eq_of_toNat_eq
  rw [opField, BitVec.extractLsb'_toNat, commandWord_toNat, Nat.shiftRight_eq_div_pow]
  have := op.isLt
  omega

@[simp] theorem cookieField_commandWord : cookieField (commandWord op c imm) = c := by
  apply BitVec.eq_of_toNat_eq
  rw [cookieField, BitVec.extractLsb'_toNat, commandWord_toNat, Nat.shiftRight_eq_div_pow]
  have := op.isLt
  have := c.isLt
  omega

@[simp] theorem immField_commandWord : immField (commandWord op c imm) = imm := by
  apply BitVec.eq_of_toNat_eq
  rw [immField, BitVec.extractLsb'_toNat, commandWord_toNat, Nat.shiftRight_eq_div_pow]
  have := op.isLt
  have := c.isLt
  have := imm.isLt
  omega

@[simp] theorem zeroField_commandWord : zeroField (commandWord op c imm) = 0 := by
  apply BitVec.eq_of_toNat_eq
  rw [zeroField, BitVec.extractLsb'_toNat, commandWord_toNat, Nat.shiftRight_eq_div_pow]
  have := op.isLt
  have := c.isLt
  have := imm.isLt
  have z : (0 : Byte).toNat = 0 := rfl
  rw [z]
  omega

end

/-- A word is its four fields. -/
theorem word_eq_fields (w : Word) : w.toNat = (zeroField w).toNat * 16777216 + (immField w).toNat * 65536 +
    (cookieField w).toNat * 256 + (opField w).toNat := by
  have := w.isLt
  simp only [zeroField, immField, cookieField, opField, BitVec.extractLsb'_toNat, Nat.shiftRight_eq_div_pow]
  omega

/-- A word whose field `ZERO` is 0 is the command word of its other fields. -/
theorem commandWord_fields {w : Word} (h : zeroField w = 0) :
    commandWord (opField w) (cookieField w) (immField w) = w := by
  apply BitVec.eq_of_toNat_eq
  have z : (zeroField w).toNat = 0 := by rw [h]; rfl
  have := word_eq_fields w
  rw [commandWord_toNat]
  omega

/-- Words with equal fields are equal. -/
theorem word_ext {v w : Word} (h0 : opField v = opField w) (h1 : cookieField v = cookieField w)
    (h2 : immField v = immField w) (h3 : zeroField v = zeroField w) : v = w := by
  apply BitVec.eq_of_toNat_eq
  rw [word_eq_fields v, word_eq_fields w, h0, h1, h2, h3]

section
variable (v w : Word)

theorem opField_and : opField (v &&& w) = opField v &&& opField w := BitVec.extractLsb'_and ..
theorem cookieField_and : cookieField (v &&& w) = cookieField v &&& cookieField w := BitVec.extractLsb'_and ..
theorem immField_and : immField (v &&& w) = immField v &&& immField w := BitVec.extractLsb'_and ..
theorem zeroField_and : zeroField (v &&& w) = zeroField v &&& zeroField w := BitVec.extractLsb'_and ..

end

/-- A row selects a word by its four fields. -/
theorem OpcodeRow.selects_iff (r : OpcodeRow) (w : Word) : r.selects w = true ↔
    opField w &&& opField r.mask = opField r.pattern ∧ cookieField w &&& cookieField r.mask = cookieField r.pattern ∧
    immField w &&& immField r.mask = immField r.pattern ∧ zeroField w &&& zeroField r.mask = zeroField r.pattern := by
  rw [OpcodeRow.selects, beq_iff_eq, ← opField_and, ← cookieField_and, ← immField_and, ← zeroField_and]
  exact ⟨fun h => by rw [h]; exact ⟨rfl, rfl, rfl, rfl⟩, fun h => word_ext h.1 h.2.1 h.2.2.1 h.2.2.2⟩

/-- A handle that fits comes back from its field (rule R102). -/
theorem handle_roundtrip {c : Nat} (h : handleFits c = true) : (encodeHandle c).toNat = c := by
  have hc : c < 256 := by simpa [handleFits] using h
  rw [encodeHandle, BitVec.toNat_ofNat]
  omega

/-- A port that fits comes back from its field (rule R102). -/
theorem port_roundtrip {port : Int} (h : portFits port = true) : (encodePort port).toInt = port := by
  simp only [portFits, Bool.and_eq_true, decide_eq_true_eq] at h
  rw [encodePort, BitVec.toInt_ofInt]
  simp only [Int.bmod]
  split <;> omega

end Sys2Proof
end

