-- ==== Sys2Proof/Laws/Reply.lean ====
section
/-! SUPPORT. What the scan, `findReply`, `checkTxDesc` and `getReplyBody` can do, said once. -/

namespace Sys2Proof.Machine

open Sys2Proof

variable {crc : List Byte → Byte}

/-! ## Transaction ids -/

/-- A 16-bit number is its two bytes. -/
theorem be16_inj {a b c d : Byte} : be16 a b = be16 c d ↔ a = c ∧ b = d := by
  constructor
  · intro h
    have hb := b.isLt
    have hd := d.isLt
    unfold be16 at h
    exact ⟨BitVec.eq_of_toNat_eq (by omega), BitVec.eq_of_toNat_eq (by omega)⟩
  · rintro ⟨rfl, rfl⟩; rfl

/-! ## The scan along a list of slots -/

/-- The scan of rule R216 along any list of slots. -/
def scanAlong (crc : List Byte → Byte) (c : Nat) : List Nat → State → State × Option Nat
  | [], s => (s, none)
  | i :: rest, s =>
    if slotMatches i c (classify crc i s) then (classify crc i s, some i) else scanAlong crc c rest (classify crc i s)

theorem scanDown_eq_scanAlong (c : Nat) : ∀ (n : Nat) (s : State),
    scanDown crc c n s = scanAlong crc c (List.range n).reverse s
  | 0, _ => rfl
  | n + 1, s => by
    rw [List.range_succ, List.reverse_append]
    simp only [scanDown, List.reverse_singleton, List.singleton_append, scanAlong, scanDown_eq_scanAlong c n]

theorem scanUp_eq_scanAlong (c : Nat) : ∀ (n i : Nat) (s : State),
    scanUp crc c i n s = scanAlong crc c (List.range' i n) s
  | 0, _, _ => rfl
  | n + 1, i, s => by
    simp only [scanUp, List.range'_succ, scanAlong, scanUp_eq_scanAlong c n]

theorem scanAlong_append (c : Nat) (l' : List Nat) : ∀ (l : List Nat) (s : State), scanAlong crc c (l ++ l') s =
    match scanAlong crc c l s with
    | (s1, some i) => (s1, some i)
    | (s1, none) => scanAlong crc c l' s1
  | [], _ => rfl
  | i :: l, s => by
    simp only [List.cons_append, scanAlong]
    split
    · rfl
    · exact scanAlong_append c l' l _

/-- `findReply` is the scan along the order of rule R216. -/
theorem findReply_eq_scanAlong (c : Nat) (s : State) : findReply crc c s = scanAlong crc c (scanOrder s c) s := by
  rw [scanOrder, scanAlong_append]
  rcases h : scanAlong crc c (List.range ((s.ctxAt c).rxdescIndex + 1)).reverse s with ⟨s1, _ | i⟩ <;>
    simp only [findReply, scanDown_eq_scanAlong, scanUp_eq_scanAlong, h]

/-! ## The scan changes the failure table only -/

theorem State.eq_withFt_trans {s s1 r : State} (h1 : s1 = { s with ft := s1.ft })
    (h2 : r = { s1 with ft := r.ft }) : r = { s with ft := r.ft } := by
  generalize s1.ft = f at h1
  subst h1
  exact h2

theorem scanAlong_eq (c : Nat) : ∀ (l : List Nat) (s : State),
    (scanAlong crc c l s).1 = { s with ft := (scanAlong crc c l s).1.ft }
  | [], _ => rfl
  | i :: l, s => by
    simp only [scanAlong]
    split
    · exact classify_eq i s
    · exact State.eq_withFt_trans (classify_eq i s) (scanAlong_eq c l (classify crc i s))

theorem scanAlong_ft_length (c : Nat) : ∀ (l : List Nat) (s : State),
    (scanAlong crc c l s).1.ft.length = s.ft.length
  | [], _ => rfl
  | i :: l, s => by
    simp only [scanAlong]
    split
    · simp
    · rw [scanAlong_ft_length c l]; simp

/-- Every entry is as before or what its slot's classification gives. -/
theorem scanAlong_ftAt_or (c : Nat) : ∀ (l : List Nat) (s : State) (j : Nat),
    (scanAlong crc c l s).1.ftAt j = s.ftAt j ∨ (scanAlong crc c l s).1.ftAt j = entryAfter crc s j
  | [], _, _ => .inl rfl
  | i :: l, s, j => by
    have h1 : (classify crc i s).ftAt j = s.ftAt j ∨ (classify crc i s).ftAt j = entryAfter crc s j := by
      rw [classify_ftAt]
      split
      · rename_i h; rw [h.1]; exact .inr rfl
      · exact .inl rfl
    simp only [scanAlong]
    split
    · exact h1
    · rcases scanAlong_ftAt_or c l (classify crc i s) j with h | h
      · rw [h]; exact h1
      · rw [h]; exact .inr (by simp)

/-! ## The scan in the terms of the rules -/

@[simp] theorem satisfies_classify (i : Nat) (s : State) (c j : Nat) :
    satisfies crc (classify crc i s) c j = satisfies crc s c j := by
  simp only [satisfies, entryAfter_classify, classify_pkt, classify_ctxAt]

/-- `matches` right after the slot's classification. -/
theorem slotMatches_classify {i : Nat} {s : State} (hi : i < s.ft.length) (c : Nat) :
    slotMatches i c (classify crc i s) = satisfies crc s c i := by
  have h : ((classify crc i s).ftAt i) = entryAfter crc s i := by rw [classify_ftAt, if_pos ⟨rfl, hi⟩]
  have ht : (be16 (pktByte (s.pkt i) 5) (pktByte (s.pkt i) 6) == (s.ctxAt c).tid) =
      (pktByte (s.pkt i) 5 == (s.ctxAt c).hdr.tidH && pktByte (s.pkt i) 6 == (s.ctxAt c).hdr.tidL) := by
    rw [Bool.eq_iff_iff]
    simp only [beq_iff_eq, Bool.and_eq_true, Ctx.tid, Header.tid, be16_inj]
  simp only [slotMatches, satisfies, entryValidated, h, classify_pkt, classify_ctxAt, ht, Ctx.instr, low6]

theorem scanAlong_found (c : Nat) : ∀ (l : List Nat) (s : State), (∀ i ∈ l, i < s.ft.length) →
    (scanAlong crc c l s).2 = l.find? (satisfies crc s c)
  | [], _, _ => rfl
  | i :: l, s, h => by
    have hi := h i (by simp)
    rw [scanAlong, slotMatches_classify hi, List.find?_cons]
    cases hs : satisfies crc s c i with
    | true => rfl
    | false =>
      simp only [Bool.false_eq_true, ↓reduceIte]
      rw [scanAlong_found c l (classify crc i s) (fun j hj => by simpa using h j (by simp [hj]))]
      congr 1
      funext j
      simp

theorem scanAlong_ftAt (c : Nat) : ∀ (l : List Nat) (s : State) (j : Nat), (∀ i ∈ l, i < s.ft.length) →
    (scanAlong crc c l s).1.ftAt j = if j ∈ upToFirst (satisfies crc s c) l then entryAfter crc s j else s.ftAt j
  | [], _, _, _ => rfl
  | i :: l, s, j, h => by
    have hi := h i (by simp)
    have hp : satisfies crc (classify crc i s) c = satisfies crc s c := by funext j; simp
    rw [scanAlong, slotMatches_classify hi, upToFirst]
    cases hs : satisfies crc s c i with
    | true =>
      simp only [↓reduceIte, List.mem_singleton]
      rw [classify_ftAt]
      by_cases hj : j = i
      · simp [hj, hi]
      · simp [hj]
    | false =>
      simp only [Bool.false_eq_true, ↓reduceIte]
      rw [scanAlong_ftAt c l (classify crc i s) j (fun j hj => by simpa using h j (by simp [hj])), hp,
        entryAfter_classify, classify_ftAt]
      by_cases hj : j ∈ upToFirst (satisfies crc s c) l
      · rw [if_pos hj, if_pos (by simp [hj])]
      · rw [if_neg hj]
        by_cases hji : j = i
        · subst hji; simp [hi]
        · simp [hji, hj]

/-- Every slot of the scan order is in the ring. -/
theorem mem_scanOrder {s : State} {c i : Nat} (hs : (s.ctxAt c).rxdescIndex < s.cfg.maxRx) :
    i ∈ scanOrder s c ↔ i < s.cfg.maxRx := by
  simp only [scanOrder, List.mem_append, List.mem_reverse, List.mem_range, List.mem_range'_1]
  omega

theorem list_ext_ftAt {l : List Half} {s : State} (hl : l.length = s.ft.length)
    (h : ∀ j, j < s.ft.length → l.getD j 0 = s.ftAt j) : l = s.ft := by
  apply List.ext_getElem hl
  intro j h1 h2
  have := h j h2
  simpa [State.ftAt, List.getD_eq_getElem?_getD, List.getElem?_eq_getElem, h1, h2] using this

/-- What `findReply` does: it answers the first slot in scan order that matches and classifies the slots it visits
(rules R216, R217, R220). -/
theorem findReply_eq {c : Nat} {s : State} (hs : (s.ctxAt c).rxdescIndex < s.cfg.maxRx)
    (hf : s.ft.length = s.cfg.maxRx) :
    findReply crc c s = ({ s with ft := tableAfterScan crc s c }, firstMatch crc s c) := by
  have hm : ∀ i ∈ scanOrder s c, i < s.ft.length := fun i hi => by rw [hf]; exact (mem_scanOrder hs).1 hi
  rw [findReply_eq_scanAlong]
  refine Prod.ext ?_ (scanAlong_found c _ s hm)
  have ht : tableAfterScan crc s c = (scanAlong crc c (scanOrder s c) s).1.ft := by
    apply list_ext_ftAt
    · simp [tableAfterScan, scanAlong_ft_length]
    · intro j hj
      rw [scanAlong_ft_length] at hj
      rw [scanAlong_ftAt c _ s j hm]
      simp [tableAfterScan, visited, List.getD_eq_getElem?_getD, hj]
  rw [ht]
  exact scanAlong_eq c _ s

/-- `findReply` changes the failure table only. -/
theorem findReply_frame (c : Nat) (s : State) : (findReply crc c s).1 = { s with ft := (findReply crc c s).1.ft } := by
  rw [findReply_eq_scanAlong]; exact scanAlong_eq c _ s

theorem findReply_ft_length (c : Nat) (s : State) : (findReply crc c s).1.ft.length = s.ft.length := by
  rw [findReply_eq_scanAlong]; exact scanAlong_ft_length c _ s

theorem findReply_ftAt_or (c : Nat) (s : State) (j : Nat) :
    (findReply crc c s).1.ftAt j = s.ftAt j ∨ (findReply crc c s).1.ftAt j = entryAfter crc s j := by
  rw [findReply_eq_scanAlong]; exact scanAlong_ftAt_or c _ s j

/-! ## checkTxDesc -/

theorem txSlotIsOurs_iff {c : Nat} {s : State} : txSlotIsOurs c s = true ↔ TxSlotOurs s c := by
  simp only [txSlotIsOurs, TxSlotOurs, Bool.and_eq_true, bne_iff_ne, beq_iff_eq, Ctx.tid, Header.tid, be16_inj,
    State.headerCtx, and_assoc]

/-- What `check_tx_desc` does (rules R212 to R215). -/
theorem checkTxDesc_cases (c : Nat) (s : State) :
    (TxCheckPasses s c ∧ checkTxDesc c s = (s, none)) ∨
    (TxSlotOurs s c ∧ (s.txAt (s.ctxAt c).txdesc).en = true ∧ checkTxDesc c s = (s, some .replyNotYetSent)) ∨
    (TxSlotOurs s c ∧ (s.txAt (s.ctxAt c).txdesc).en = false ∧ (s.txAt (s.ctxAt c).txdesc).le = true ∧
      checkTxDesc c s = (s.emit .txLinkError ((s.ctxAt c).txdesc : Int), some .replyNotSent)) := by
  by_cases ho : TxSlotOurs s c
  · have h := txSlotIsOurs_iff.2 ho
    cases he : (s.txAt (s.ctxAt c).txdesc).en with
    | true => exact .inr (.inl ⟨ho, rfl, by simp [checkTxDesc, h, he]⟩)
    | false =>
      cases hl : (s.txAt (s.ctxAt c).txdesc).le with
      | true => exact .inr (.inr ⟨ho, rfl, rfl, by simp [checkTxDesc, h, he, hl]⟩)
      | false => exact .inl ⟨fun _ => ⟨he, hl⟩, by simp [checkTxDesc, h, he, hl]⟩
  · have h : txSlotIsOurs c s = false := by rw [← Bool.not_eq_true, txSlotIsOurs_iff]; exact ho
    exact .inl ⟨fun hc => absurd hc ho, by simp [checkTxDesc, h]⟩

theorem checkTxDesc_of_passes {c : Nat} {s : State} (h : TxCheckPasses s c) : checkTxDesc c s = (s, none) := by
  rcases checkTxDesc_cases c s with ⟨-, he⟩ | ⟨ho, he, -⟩ | ⟨ho, -, hl, -⟩
  · exact he
  · exact absurd (h ho).1 (by simp [he])
  · exact absurd (h ho).2 (by simp [hl])

/-! ## getReplyBody -/

/-- What `get_reply_body` can do, with the code it answers (rule R210). -/
theorem getReplyBody_cases (c : Nat) (s : State) :
    (s.cookieValid c = false ∧ getReplyBody crc c s = (s, .commandNoChannel)) ∨
    (s.cookieValid c = true ∧ TxSlotOurs s c ∧ (s.txAt (s.ctxAt c).txdesc).en = true ∧
      getReplyBody crc c s = (s, .replyNotYetSent)) ∨
    (s.cookieValid c = true ∧ TxSlotOurs s c ∧ (s.txAt (s.ctxAt c).txdesc).en = false ∧
      (s.txAt (s.ctxAt c).txdesc).le = true ∧
      getReplyBody crc c s = (s.emit .txLinkError ((s.ctxAt c).txdesc : Int), .replyNotSent)) ∨
    (s.cookieValid c = true ∧ TxCheckPasses s c ∧ (findReply crc c s).2 = none ∧
      getReplyBody crc c s = ((findReply crc c s).1, .replyNoReply)) ∨
    (∃ i, s.cookieValid c = true ∧ TxCheckPasses s c ∧ (findReply crc c s).2 = some i ∧
      getReplyBody crc c s = (deliver i (findReply crc c s).1, Code.ofStatus (pktByte (s.pkt i) 3))) := by
  cases hv : s.cookieValid c with
  | false => exact .inl ⟨rfl, by simp [getReplyBody, hv]⟩
  | true =>
    rcases checkTxDesc_cases c s with ⟨hp, he⟩ | ⟨ho, hen, he⟩ | ⟨ho, hen, hle, he⟩
    · cases hf : findReply crc c s with
      | mk s2 o =>
        have hpk : ∀ i, s2.pkt i = s.pkt i := by
          intro i
          have := findReply_frame (crc := crc) c s
          rw [hf] at this
          rw [show s2 = _ from this]; rfl
        cases o with
        | none => exact .inr (.inr (.inr (.inl ⟨rfl, hp, rfl, by simp [getReplyBody, hv, he, hf]⟩)))
        | some i =>
          exact .inr (.inr (.inr (.inr ⟨i, rfl, hp, rfl, by simp [getReplyBody, hv, he, hf, hpk]⟩)))
    · exact .inr (.inl ⟨rfl, ho, hen, by simp [getReplyBody, hv, he]⟩)
    · exact .inr (.inr (.inl ⟨rfl, ho, hen, hle, by simp [getReplyBody, hv, he]⟩))

/-- The payload delivery writes `REPLY_PTR` and `REPLY_LEN` only (rule R222). -/
theorem deliver_eq (i : Nat) (s : State) : deliver i s = { s with res := { s.res with
    replyPtr := (deliver i s).res.replyPtr, replyLen := (deliver i s).res.replyLen } } := by
  unfold deliver
  split <;> rfl

/-- What `get_reply_body` leaves unchanged, whatever it answers. -/
theorem getReplyBody_frame (c : Nat) (s : State) : ∃ ft events ptr len,
    (getReplyBody crc c s).1 =
      { s with ft := ft, events := events, res := { s.res with replyPtr := ptr, replyLen := len } } ∧
    ft.length = s.ft.length ∧ (∀ j, ft.getD j 0 = s.ftAt j ∨ ft.getD j 0 = entryAfter crc s j) ∧
    (events = s.events ∨ events = s.events ++ [⟨.txLinkError, ((s.ctxAt c).txdesc : Int)⟩]) := by
  rcases getReplyBody_cases c s with ⟨-, h⟩ | ⟨-, -, -, h⟩ | ⟨-, -, -, -, h⟩ | ⟨-, -, -, h⟩ | ⟨i, -, -, -, h⟩
  · rw [h]; exact ⟨s.ft, s.events, _, _, rfl, rfl, fun _ => .inl rfl, .inl rfl⟩
  · rw [h]; exact ⟨s.ft, s.events, _, _, rfl, rfl, fun _ => .inl rfl, .inl rfl⟩
  · rw [h]; exact ⟨s.ft, _, _, _, rfl, rfl, fun _ => .inl rfl, .inr rfl⟩
  · rw [h]
    exact ⟨_, s.events, _, _, findReply_frame c s, findReply_ft_length c s, findReply_ftAt_or c s, .inl rfl⟩
  · rw [h]
    refine ⟨(findReply crc c s).1.ft, s.events, (deliver i (findReply crc c s).1).res.replyPtr,
      (deliver i (findReply crc c s).1).res.replyLen, ?_, findReply_ft_length c s, findReply_ftAt_or c s, .inl rfl⟩
    have hf := findReply_frame (crc := crc) c s
    dsimp only
    generalize (findReply crc c s).1 = s1 at hf ⊢
    generalize s1.ft = f at hf ⊢
    subst hf
    exact deliver_eq i _

end Sys2Proof.Machine
end

