-- ==== Sys2Proof/Laws/Send.lean ====
section
/-! SUPPORT. What `sendBody` and the blocking send can do, said once. -/

namespace Sys2Proof.Machine

open Sys2Proof

/-! ## The checks in words -/

theorem lengthRefused_eq_false {cfg : Build} {write : Bool} {datalen : Word} :
    lengthRefused cfg write datalen = false ↔
      if write then datalen.toNat < 2 ^ 24 else datalen.toNat + 13 ≤ cfg.maxPacketLen := by
  cases write
  · have h : lengthRefused cfg false datalen = decide (cfg.maxPacketLen < datalen.toNat + 1 + 12) := rfl
    rw [h, decide_eq_false_iff_not]
    simp only [Bool.false_eq_true, ↓reduceIte]
    omega
  · simp [lengthRefused]

theorem arenaFull_eq_false {s : State} :
    arenaFull s = false ↔ s.cfg.arenaHeadroom ≤ s.cfg.arenaSize - s.regs.arenaPtr := by
  simp [arenaFull]

theorem txSlot_eq_some {s : State} {t : Nat} :
    txSlot s = some t ↔ (s.regs.txIndex < s.cfg.maxTx ∧ t = s.regs.txIndex) ∨
      (s.cfg.maxTx ≤ s.regs.txIndex ∧ s.cfg.maxTx = 64 ∧ t = 0) := by
  unfold txSlot txWrapSize
  split
  · simp; omega
  · split
    · simp; omega
    · simp; omega

/-! ## The three ends of a send -/

/-- An accepted send commits. -/
theorem sendBody_of_accepts {c : Nat} {instruction : Byte} {ptr datalen : Word} {t : Nat} {s : State}
    (h : SendAccepts c instruction datalen t s) :
    sendBody c instruction ptr datalen s =
      (commitSend c (instruction ||| (s.ctxAt c).mask) ptr datalen t s, .ok) := by
  have hl := lengthRefused_eq_false.2 h.length
  have ha := arenaFull_eq_false.2 h.headroom
  have ht := txSlot_eq_some.2 h.txSlot
  have hr := h.rxSlot
  simp only [sendBody, h.cookie, (s.bound_iff).2 h.port, effectiveInstruction, isWrite, hl, ha, ht, h.free,
    State.sync_eq, Bool.not_true, Bool.false_eq_true, ↓reduceIte]
  rw [if_neg (by omega)]

/-- A send is refused with nothing changed, refused for want of an RX slot with the event of rule R186, or accepted
and committed. -/
theorem sendBody_cases (c : Nat) (instruction : Byte) (ptr datalen : Word) (s : State) :
    (∃ code, code ≠ .ok ∧ sendBody c instruction ptr datalen s = (s, code)) ∨
    (s.cookieValid c = true ∧ s.regs.port ≠ 0xFF ∧ s.cfg.maxRx ≤ s.regs.rxIndex ∧
      sendBody c instruction ptr datalen s =
        (s.emit .noRxDescriptors s.regs.rxIndex, .commandNoDescriptorsAvailable)) ∨
    (∃ t, SendAccepts c instruction datalen t s ∧
      sendBody c instruction ptr datalen s =
        (commitSend c (instruction ||| (s.ctxAt c).mask) ptr datalen t s, .ok)) := by
  by_cases h1 : s.cookieValid c = true
  case neg => exact .inl ⟨.commandNoChannel, by decide, by simp [sendBody, h1]⟩
  by_cases h2 : s.bound = true
  case neg => exact .inl ⟨.commandChannelDeactivated, by decide, by simp [sendBody, h1, h2]⟩
  by_cases h3 : lengthRefused s.cfg (isWrite (effectiveInstruction instruction (s.ctxAt c).mask)) datalen = true
  · exact .inl ⟨.tooMuchData, by decide, by simp [sendBody, h1, h2, h3]⟩
  by_cases h4 : arenaFull s = true
  · exact .inl ⟨.commandBufferFull, by decide, by simp [sendBody, h1, h2, h3, h4]⟩
  by_cases h5 : s.cfg.maxRx ≤ s.regs.rxIndex
  · exact .inr (.inl ⟨h1, (s.bound_iff).1 h2, h5, by simp [sendBody, h1, h2, h3, h4, h5]⟩)
  cases h6 : txSlot s with
  | none => exact .inl ⟨.commandNoDescriptorsAvailable, by decide, by simp [sendBody, h1, h2, h3, h4, h5, h6]⟩
  | some t =>
    by_cases h7 : (s.txAt t).en = true
    · exact .inl ⟨.commandNoDescriptorsAvailable, by decide, by simp [sendBody, h1, h2, h3, h4, h5, h6, h7]⟩
    · have h : SendAccepts c instruction datalen t s :=
        { cookie := h1
          port := (s.bound_iff).1 h2
          length := lengthRefused_eq_false.1 (Bool.eq_false_iff.2 h3)
          headroom := arenaFull_eq_false.1 (by simpa using h4)
          rxSlot := by omega
          txSlot := txSlot_eq_some.1 h6
          free := by simpa using h7 }
      exact .inr (.inr ⟨t, h, sendBody_of_accepts h⟩)

/-- A send answers `OK` exactly when it is accepted. -/
theorem sendBody_ok {c : Nat} {instruction : Byte} {ptr datalen : Word} {s : State}
    (h : (sendBody c instruction ptr datalen s).2 = .ok) : ∃ t, SendAccepts c instruction datalen t s ∧
      sendBody c instruction ptr datalen s =
        (commitSend c (instruction ||| (s.ctxAt c).mask) ptr datalen t s, .ok) := by
  rcases sendBody_cases c instruction ptr datalen s with ⟨code, hc, he⟩ | ⟨-, -, -, he⟩ | ht
  · rw [he] at h; exact absurd h hc
  · rw [he] at h; cases h
  · exact ht

/-! ## The commit, field by field -/

section
variable (c : Nat) (ins : Byte) (ptr datalen : Word) (t : Nat) (s : State)

@[simp] theorem commitSend_cfg : (commitSend c ins ptr datalen t s).cfg = s.cfg := rfl
@[simp] theorem commitSend_regs : (commitSend c ins ptr datalen t s).regs =
    s.regs.afterSend t (slotSize (isWrite ins) datalen) := rfl
@[simp] theorem commitSend_args : (commitSend c ins ptr datalen t s).args = s.args := rfl
@[simp] theorem commitSend_res : (commitSend c ins ptr datalen t s).res = s.res := rfl
@[simp] theorem commitSend_tx : (commitSend c ins ptr datalen t s).tx =
    s.tx.set t (programmedTx c (isWrite ins) ptr datalen) := rfl
@[simp] theorem commitSend_rx : (commitSend c ins ptr datalen t s).rx =
    s.rx.set s.regs.rxIndex (reservedRx s.regs.arenaPtr (slotSize (isWrite ins) datalen)) := rfl
@[simp] theorem commitSend_ft : (commitSend c ins ptr datalen t s).ft = s.ft := rfl
@[simp] theorem commitSend_arena : (commitSend c ins ptr datalen t s).arena = s.arena := rfl
@[simp] theorem commitSend_ctx : (commitSend c ins ptr datalen t s).ctx =
    s.ctx.set c ((s.ctxAt c).afterSend s ins datalen t) := rfl
@[simp] theorem commitSend_hostMem : (commitSend c ins ptr datalen t s).hostMem = s.hostMem := rfl
@[simp] theorem commitSend_portReg : (commitSend c ins ptr datalen t s).portReg = s.portReg := rfl
@[simp] theorem commitSend_events : (commitSend c ins ptr datalen t s).events = s.events := rfl
@[simp] theorem commitSend_wire : (commitSend c ins ptr datalen t s).wire = s.wire := rfl
@[simp] theorem commitSend_seq : (commitSend c ins ptr datalen t s).seq = s.seq := rfl
@[simp] theorem commitSend_env : (commitSend c ins ptr datalen t s).env = s.env := rfl
@[simp] theorem commitSend_ftAt (i : Nat) : (commitSend c ins ptr datalen t s).ftAt i = s.ftAt i := rfl

theorem commitSend_txAt (x : Nat) : (commitSend c ins ptr datalen t s).txAt x =
    if x = t ∧ t < s.tx.length then programmedTx c (isWrite ins) ptr datalen else s.txAt x := getD_set ..
theorem commitSend_rxAt (x : Nat) : (commitSend c ins ptr datalen t s).rxAt x =
    if x = s.regs.rxIndex ∧ s.regs.rxIndex < s.rx.length then
      reservedRx s.regs.arenaPtr (slotSize (isWrite ins) datalen) else s.rxAt x := getD_set ..
theorem commitSend_ctxAt (x : Nat) : (commitSend c ins ptr datalen t s).ctxAt x =
    if x = c ∧ c < s.ctx.length then (s.ctxAt c).afterSend s ins datalen t else s.ctxAt x := getD_set ..

/-- The commit of a send is the state the rules R190 to R199 describe. -/
theorem commitSend_eq_programmed : commitSend c ins ptr datalen t s = programmed s c ins ptr datalen t := by
  unfold commitSend programmed programmedTx reservedRx slotSize reservedSize isWrite
  cases ins.getLsbD 5 <;> rfl

end

/-! ## The blocking send -/

/-- A blocking command whose send is accepted holds the timer at its start and waits (rule R281). -/
theorem blockingSend_of_accepts {c : Nat} {write : Bool} {ptr datalen timeout : Word} {t : Nat} {s : State}
    (h : SendAccepts c (directionInstr write) datalen t s) : ∃ e, InputsRead 0 0 1 s.env e ∧
      (∀ d ∈ s.env.timerDraws.head?, e.timer = s.env.timer + d) ∧
      blockingSend c write ptr datalen timeout s = .next
        (((commitSend c (directionInstr write ||| (s.ctxAt c).mask) ptr datalen t s).setEnv e).setSeq
          (.blocking c e.timer timeout.toNat)) := by
  obtain ⟨e, he, ht, hi⟩ :=
    (commitSend c (directionInstr write ||| (s.ctxAt c).mask) ptr datalen t s).drawTimer_eq
  refine ⟨e, hi, fun d hd => ?_, ?_⟩
  · rw [← ht]; exact drawTimer_head _ d hd
  simp only [blockingSend, sendBody_of_accepts h, ↓reduceIte]
  rw [he, ht]

/-- A blocking command's first step ends the command with the send's refusal or leaves it waiting. -/
theorem blockingSend_cases {c : Nat} {write : Bool} {ptr datalen timeout : Word} {s u : State}
    (h : blockingSend c write ptr datalen timeout s = .next u) :
    ((sendBody c (directionInstr write) ptr datalen s).2 ≠ .ok ∧
      u = (sendBody c (directionInstr write) ptr datalen s).1.raise (sendBody c (directionInstr write) ptr datalen s).2) ∨
    (∃ t e, SendAccepts c (directionInstr write) datalen t s ∧ InputsRead 0 0 1 s.env e ∧
      u = ((commitSend c (directionInstr write ||| (s.ctxAt c).mask) ptr datalen t s).setEnv e).setSeq
        (.blocking c e.timer timeout.toNat)) := by
  by_cases hr : (sendBody c (directionInstr write) ptr datalen s).2 = .ok
  · obtain ⟨t, ha, -⟩ := sendBody_ok hr
    obtain ⟨e, hi, -, he⟩ := blockingSend_of_accepts (ptr := ptr) (timeout := timeout) ha
    rw [he] at h
    injection h with h
    exact .inr ⟨t, e, ha, hi, h.symm⟩
  · refine .inl ⟨hr, ?_⟩
    simpa only [blockingSend, hr, ↓reduceIte, complete_next] using h

end Sys2Proof.Machine
end

