-- ==== Sys2Proof/Laws/Exec.lean ====
section
/-! SUPPORT. Everything a command can do, said once: `Effect crc i s t` lists the next states a command can leave with
the checksum `crc`, `command_effect` says there are no others, and `exec_effect` says so of `exec`. -/

namespace Sys2Proof.Machine

open Sys2Proof

variable {crc : List Byte → Byte}

/-- What a command can leave of a state. -/
inductive Effect (crc : List Byte → Byte) (i : Instr) (s : State) : State → Prop
  /-- ended with a code and nothing else -/
  | raised (code : Code) : Effect crc i s (s.raise code)
  /-- a send with no free RX slot (spec/41_send.md rule R186) -/
  | noSlot : sends i = true → Effect crc i s ((s.emit .noRxDescriptors s.regs.rxIndex).raise .commandNoDescriptorsAvailable)
  /-- an accepted send that ends at once -/
  | sent (c : Nat) (instruction : Byte) (ptr : Word) (t : Nat) : sends i = true → handleOperand i = some c →
      SendAccepts c instruction s.args.len t s →
      Effect crc i s ((commitSend c (instruction ||| (s.ctxAt c).mask) ptr s.args.len t s).raise .ok)
  /-- an accepted send after which the sequencer waits for the reply -/
  | blocks (c : Nat) (instruction : Byte) (ptr : Word) (t : Nat) (e : Env) : sends i = true →
      handleOperand i = some c → SendAccepts c instruction s.args.len t s → e.agenda = s.env.agenda →
      s.env.timer ≤ e.timer → e.readData = s.env.readData →
      Effect crc i s (((commitSend c (instruction ||| (s.ctxAt c).mask) ptr s.args.len t s).setEnv e).setSeq
        (.blocking c e.timer s.args.timeout.toNat))
  /-- a search for a reply -/
  | looked (c : Nat) : sends i = false → resetsChannel i = false → s.cookieValid c = true →
      s.pointersInRange = true → Effect crc i s ((getReplyBody crc c s).1.raise (getReplyBody crc c s).2)
  /-- a channel reset -/
  | reset (es : List Event) (e : Env) (code : Code) : resetsChannel i = true → s.pointersInRange = true →
      e.agenda = s.env.agenda → e.timer = s.env.timer → e.readData = s.env.readData →
      Effect crc i s (State.raise { cleared s with events := s.events ++ es, env := e } code)
  /-- deactivation -/
  | unbound (es : List Event) (e : Env) : resetsChannel i = true → s.pointersInRange = true →
      e.agenda = s.env.agenda → e.timer = s.env.timer → e.readData = s.env.readData →
      Effect crc i s { cleared s with
        regs := { s.regs with
          port := 0xFF
          hkPort := if s.cfg.hasHkMirror then 0xFF else s.regs.hkPort
          txIndex := 0, rxIndex := 0, arenaPtr := 0 }
        res := { s.res with result := 0x0000 }
        events := s.events ++ es
        env := e }
  /-- a port bound -/
  | bound (port : Int) (dest src : Byte) (es : List Event) (e : Env) : resetsChannel i = true → 0 ≤ port →
      port < (s.cfg.nPorts : Int) → s.pointersInRange = true →
      e.agenda = s.env.agenda → e.timer = s.env.timer → e.readData = s.env.readData →
      Effect crc i s { cleared s with
        regs := { s.regs with
          port := BitVec.ofInt 8 port, destAddr := dest, srcAddr := src
          hkPort := if s.cfg.hasHkMirror then BitVec.ofInt 8 port else s.regs.hkPort
          txIndex := 0, rxIndex := 0, arenaPtr := 0 }
        portReg := s.portReg.set port.toNat ⟨s.cfg.maxPacketLen, src⟩
        res := { s.res with result := 0x0000 }
        events := s.events ++ es
        env := e }
  /-- a reading of the link state -/
  | drew (e : Env) (code : Code) : e.agenda = s.env.agenda → e.timer = s.env.timer → e.readData = s.env.readData →
      Effect crc i s ((s.setEnv e).raise code)
  /-- a context opened -/
  | opened (c : Nat) : i = .openCookie → freeHandle s = some c →
      Effect crc i s (((s.setCtx c (openedCtx s.args)).setRetVal (BitVec.ofNat 32 c)).raise .ok)
  /-- a context pointed elsewhere -/
  | reopened (c : Nat) (e : Env) : i = .reOpen c → s.cookieValid c = true → e.agenda = s.env.agenda →
      e.timer = s.env.timer → e.readData = s.env.readData →
      Effect crc i s (((s.setEnv e).setCtx c { s.ctxAt c with addr := s.args.addr, maxlen := s.args.maxlen }).raise .ok)
  /-- a context closed -/
  | closed (c : Nat) : i = .close c → s.cookieValid c = true →
      Effect crc i s ((s.setCtx c { s.ctxAt c with valid := false }).raise .ok)
  /-- an address set -/
  | addressSet (c : Nat) : i = .setAddress c → s.cookieValid c = true →
      Effect crc i s ((s.setCtx c { s.ctxAt c with addr := s.args.addr }).raise .ok)
  /-- an address returned -/
  | addressGot (c : Nat) : i = .getAddress c → Effect crc i s ((s.setRetVal (s.ctxAt c).addr).raise .ok)

/-! ## The shared bodies -/

theorem Effect.of_sendBody {i : Instr} {c : Nat} (hs : sends i = true) (hc : handleOperand i = some c)
    (instruction : Byte) (ptr : Word) {s t : State}
    (h : complete (sendBody c instruction ptr s.args.len s) = .next t) : Effect crc i s t := by
  rw [complete_next] at h
  rcases sendBody_cases c instruction ptr s.args.len s with ⟨code, _, hb⟩ | ⟨_, _, _, hb⟩ | ⟨k, ha, hb⟩ <;>
    rw [hb] at h <;> subst h
  · exact .raised code
  · exact .noSlot hs
  · exact .sent c instruction ptr k hs hc ha

theorem Effect.of_blockingSend {i : Instr} {c : Nat} (hs : sends i = true) (hc : handleOperand i = some c)
    (write : Bool) (ptr : Word) {s t : State}
    (h : blockingSend c write ptr s.args.len s.args.timeout s = .next t) : Effect crc i s t := by
  rcases blockingSend_cases h with ⟨_, ht⟩ | ⟨k, e, ha, hi, ht⟩
  · exact .of_sendBody hs hc (directionInstr write) ptr (complete_next.2 ht)
  · subst ht
    exact .blocks c _ ptr k e hs hc ha hi.agenda hi.timer hi.readData

theorem Effect.of_getReply {i : Instr} {c : Nat} (hs : sends i = false) (hr : resetsChannel i = false)
    {s t : State} (h : getReply crc c s = .next t) : Effect crc i s t := by
  unfold getReply at h
  split at h
  · rw [complete_next] at h; subst h; exact .raised _
  · rename_i hv
    obtain ⟨hp, h⟩ := guardPointers_next.1 h
    rw [complete_next] at h
    subst h
    exact .looked c hs hr (by simpa using hv) hp

theorem Effect.of_getDirected {i : Instr} {c : Nat} (hs : sends i = false) (hr : resetsChannel i = false)
    {write : Bool} {s t : State} (h : getDirected crc write c s = .next t) : Effect crc i s t := by
  unfold getDirected at h
  split at h
  · rw [complete_next] at h; subst h; exact .raised _
  · split at h
    · rw [complete_next] at h; subst h; exact .raised _
    · exact .of_getReply hs hr h

theorem Effect.of_channelReset {i : Instr} (hr : resetsChannel i = true) {s t : State}
    (h : channelReset crc s = .next t) : Effect crc i s t := by
  obtain ⟨hp, h⟩ := guardPointers_next.1 h
  rw [complete_next] at h
  obtain ⟨es, e, code, hb, _, h1, h2, h3⟩ := resetBody_frame (crc := crc) s
  rw [hb] at h
  subst h
  exact .reset es e code hr hp h1 h2 h3

theorem Effect.of_setPortBody {i : Instr} (hr : resetsChannel i = true) {port : Int} {dest src : Byte} {s t : State}
    (h : setPortBody crc port dest src s = .next t) : Effect crc i s t := by
  rcases setPortBody_cases h with ⟨code, _, ht⟩ | ⟨_, hp, es, e, ht, h1, h2, h3⟩ | ⟨h0, hn, hp, es, e, ht, h1, h2, h3⟩ <;>
    subst ht
  · exact .raised code
  · exact .unbound es e hr hp h1 h2 h3
  · exact .bound port dest src es e hr h0 hn hp h1 h2 h3

/-! ## Every command -/

/-- `exec` runs the commands with the checksum the state names. -/
theorem exec_eq_command (i : Instr) (s : State) : exec i s = command (crc8 s.cfg) i s := by cases i <;> rfl

/-- A command that ends with a next state has one of the effects. -/
theorem command_effect {i : Instr} {s t : State} (h : command crc i s = .next t) : Effect crc i s t := by
  cases i with
  | reset => exact .of_channelReset rfl h
  | isActive =>
    rw [command, execIsActive, complete_next] at h
    rcases activeBody_cases s with ⟨_, hb⟩ | ⟨_, link, e, hb, _, hi⟩ <;> rw [hb] at h <;> subst h
    · exact .raised _
    · exact .drew e _ hi.agenda (hi.timerUnread rfl) hi.readData
  | setPort port => exact .of_setPortBody rfl h
  | sendCommand c instruction => exact .of_sendBody rfl rfl instruction _ h
  | getReply c => exact .of_getReply rfl rfl h
  | sendCommandBlocking c => exact .of_blockingSend rfl rfl _ _ h
  | setPortAddr port => exact .of_setPortBody rfl h
  | openCookie =>
    rw [command, execOpenCookie, complete_next, openBody] at h
    split at h <;> subst h
    · exact .raised _
    · rename_i c hf; exact .opened c rfl hf
  | reOpen c =>
    rw [command, execReOpen, complete_next, reOpenBody] at h
    split at h
    · subst h; exact .raised _
    · rename_i hv
      rcases activeBody_cases s with ⟨_, hb⟩ | ⟨_, link, e, hb, _, hi⟩
      · rw [hb] at h; subst h; exact .raised _
      · rw [hb] at h
        by_cases hl : link = 5
        · simp only [hl, if_true] at h
          subst h
          exact .reopened c e rfl (by simpa using hv) hi.agenda (hi.timerUnread rfl) hi.readData
        · simp only [hl, if_false, reduceCtorEq] at h
          subst h
          exact .drew e _ hi.agenda (hi.timerUnread rfl) hi.readData
  | close c =>
    rw [command, execClose, complete_next, closeBody] at h
    split at h <;> subst h
    · exact .raised _
    · rename_i hv; exact .closed c rfl (by simpa using hv)
  | setAddress c =>
    rw [command, execSetAddress, complete_next, setAddressBody] at h
    split at h <;> subst h
    · exact .raised _
    · rename_i hv; exact .addressSet c rfl (by simpa using hv)
  | getAddress c =>
    rw [command, execGetAddress, complete_next, getAddressBody] at h
    split at h <;> subst h
    · exact .raised _
    · exact .addressGot c rfl
  | sendWrite c =>
    rw [command, execSendWrite] at h
    split at h
    · rw [complete_next] at h; subst h; exact .raised _
    · split at h
      · rw [complete_next] at h; subst h; exact .raised _
      · exact .of_sendBody rfl rfl _ _ h
  | getWriteReply c => exact .of_getDirected rfl rfl h
  | sendRead c =>
    rw [command, execSendRead] at h
    split at h
    · rw [complete_next] at h; subst h; exact .raised _
    · exact .of_sendBody rfl rfl _ _ h
  | getReadReply c => exact .of_getDirected rfl rfl h
  | writeBlocking c =>
    rw [command, execWriteBlocking] at h
    split at h
    · rw [complete_next] at h; subst h; exact .raised _
    · split at h
      · rw [complete_next] at h; subst h; exact .raised _
      · exact .of_blockingSend rfl rfl _ _ h
  | readBlocking c =>
    rw [command, execReadBlocking] at h
    split at h
    · rw [complete_next] at h; subst h; exact .raised _
    · exact .of_blockingSend rfl rfl _ _ h
  | resetViaCookie c =>
    rw [command, cookieReset] at h
    split at h
    · rw [complete_next] at h; subst h; exact .raised _
    · exact .of_channelReset rfl h

/-- A command of `exec` that ends with a next state has one of the effects. -/
theorem exec_effect {i : Instr} {s t : State} (h : exec i s = .next t) : Effect (crc8 s.cfg) i s t :=
  command_effect ((exec_eq_command i s).symm.trans h)

end Sys2Proof.Machine
end

