-- ==== Sys2Proof/Laws/Memory.lean ====
section
/-! SUPPORT. The laws of the byte spaces: read after write, writes leave other bytes alone, every operation keeps
the canonical form and the extent. -/

namespace Sys2Proof.Machine

open Sys2Proof

@[simp] theorem Mem.read_nil (a : Nat) : Mem.read [] a = Mem.background := rfl

theorem Mem.read_cons (b : Nat) (v : Byte) (rest : Mem) (a : Nat) :
    Mem.read ((b, v) :: rest) a = if a = b then v else Mem.read rest a := rfl

theorem Mem.wfFrom_mono {lo lo' : Nat} (h : lo' ≤ lo) : ∀ {m : Mem}, Mem.wfFrom lo m = true → Mem.wfFrom lo' m = true
  | [], _ => rfl
  | (a, v) :: rest, hm => by
    simp only [Mem.wfFrom, Bool.and_eq_true, decide_eq_true_eq] at hm ⊢
    exact ⟨⟨h.trans hm.1.1, hm.1.2⟩, hm.2⟩

/-- Below the cells everything reads as the background. -/
theorem Mem.read_of_wfFrom_lt {lo a : Nat} (h : a < lo) : ∀ {m : Mem}, Mem.wfFrom lo m = true → m.read a = Mem.background
  | [], _ => rfl
  | (b, v) :: rest, hm => by
    simp only [Mem.wfFrom, Bool.and_eq_true, decide_eq_true_eq] at hm
    rw [Mem.read_cons, if_neg (by omega)]
    exact Mem.read_of_wfFrom_lt (lo := b + 1) (by omega) hm.2

theorem Mem.cell_wfFrom {lo a : Nat} {v : Byte} {rest : Mem} (h : lo ≤ a) (hr : Mem.wfFrom (a + 1) rest = true) :
    Mem.wfFrom lo (Mem.cell a v rest) = true := by
  unfold Mem.cell
  split
  · exact Mem.wfFrom_mono (by omega) hr
  · rename_i hv
    simp only [Mem.wfFrom, Bool.and_eq_true, decide_eq_true_eq]
    exact ⟨⟨h, hv⟩, hr⟩

/-- A write keeps the canonical form. -/
theorem Mem.write_wfFrom {a : Nat} {v : Byte} : ∀ {m : Mem} {lo : Nat}, lo ≤ a → Mem.wfFrom lo m = true →
    Mem.wfFrom lo (m.write a v) = true
  | [], lo, h, _ => Mem.cell_wfFrom h rfl
  | (b, w) :: rest, lo, h, hm => by
    have hm' := hm
    simp only [Mem.wfFrom, Bool.and_eq_true, decide_eq_true_eq] at hm'
    unfold Mem.write
    split
    · rename_i hab
      refine Mem.cell_wfFrom h ?_
      simp only [Mem.wfFrom, Bool.and_eq_true, decide_eq_true_eq]
      exact ⟨⟨by omega, hm'.1.2⟩, hm'.2⟩
    · split
      · rename_i hab
        exact Mem.cell_wfFrom h (hab ▸ hm'.2)
      · simp only [Mem.wfFrom, Bool.and_eq_true, decide_eq_true_eq]
        exact ⟨hm'.1, Mem.write_wfFrom (by omega) hm'.2⟩

theorem Mem.write_wf {m : Mem} {a : Nat} {v : Byte} (h : m.wf = true) : (m.write a v).wf = true :=
  Mem.write_wfFrom (Nat.zero_le a) h

theorem Mem.writeBytes_wf {vs : List Byte} : ∀ {m : Mem} {a : Nat}, m.wf = true → (m.writeBytes a vs).wf = true := by
  induction vs with
  | nil => intro m a h; exact h
  | cons v vs ih => intro m a h; exact ih (Mem.write_wf h)

theorem Mem.read_cell (a : Nat) (v : Byte) (rest : Mem) (x : Nat) (h : Mem.wfFrom (a + 1) rest = true) :
    (Mem.cell a v rest).read x = if x = a then v else rest.read x := by
  unfold Mem.cell
  split
  · rename_i hv
    split
    · rename_i hx; rw [hv, hx]; exact Mem.read_of_wfFrom_lt (Nat.lt_succ_self a) h
    · rfl
  · rfl

theorem Mem.read_write_from (a : Nat) (v : Byte) (x : Nat) : ∀ {m : Mem} {lo : Nat}, Mem.wfFrom lo m = true →
    (m.write a v).read x = if x = a then v else m.read x
  | [], _, _ => Mem.read_cell a v [] x rfl
  | (b, w) :: rest, lo, hm => by
    simp only [Mem.wfFrom, Bool.and_eq_true, decide_eq_true_eq] at hm
    unfold Mem.write
    split
    · rename_i hab
      refine Mem.read_cell a v _ x ?_
      simp only [Mem.wfFrom, Bool.and_eq_true, decide_eq_true_eq]
      exact ⟨⟨by omega, hm.1.2⟩, hm.2⟩
    · split
      · rename_i hab
        rw [Mem.read_cell a v rest x (hab ▸ hm.2), Mem.read_cons]
        split
        · rfl
        · rename_i hx; rw [if_neg (by omega)]
      · rename_i hab
        rw [Mem.read_cons, Mem.read_cons, Mem.read_write_from a v x hm.2]
        split
        · rename_i hx; rw [if_neg (by omega)]
        · rfl

/-- A read after a write (the one law of a byte of memory). -/
theorem Mem.read_write {m : Mem} (h : m.wf = true) (a : Nat) (v : Byte) (x : Nat) :
    (m.write a v).read x = if x = a then v else m.read x := Mem.read_write_from a v x h

/-- Bytes outside the stored range read as before. -/
theorem Mem.read_writeBytes_other {vs : List Byte} {x : Nat} : ∀ {m : Mem} {a : Nat}, m.wf = true →
    (x < a ∨ a + vs.length ≤ x) → (m.writeBytes a vs).read x = m.read x := by
  induction vs with
  | nil => intro m a _ _; rfl
  | cons v vs ih =>
    intro m a h hx
    simp only [List.length_cons] at hx
    show (Mem.writeBytes (m.write a v) (a + 1) vs).read x = m.read x
    rw [ih (Mem.write_wf h) (by omega), Mem.read_write h, if_neg (by omega)]

/-- Bytes inside the stored range read as stored. -/
theorem Mem.read_writeBytes_same {vs : List Byte} {k : Nat} : ∀ {m : Mem} {a : Nat}, m.wf = true → k < vs.length →
    (m.writeBytes a vs).read (a + k) = vs.getD k 0 := by
  induction vs generalizing k with
  | nil => intro m a _ hk; simp at hk
  | cons v vs ih =>
    intro m a h hk
    show (Mem.writeBytes (m.write a v) (a + 1) vs).read (a + k) = _
    cases k with
    | zero =>
      rw [Mem.read_writeBytes_other (Mem.write_wf h) (by omega), Mem.read_write h]
      simp
    | succ k =>
      have := ih (k := k) (m := m.write a v) (a := a + 1) (Mem.write_wf h) (by simpa using hk)
      rw [show a + (k + 1) = a + 1 + k by omega, this]
      simp

@[simp] theorem Mem.readBytes_length (m : Mem) : ∀ (n a : Nat), (m.readBytes a n).length = n
  | 0, _ => rfl
  | n + 1, a => by simp [Mem.readBytes, Mem.readBytes_length m n (a + 1)]

theorem Mem.readBytes_getD (m : Mem) : ∀ (n a k : Nat), k < n → (m.readBytes a n).getD k 0 = m.read (a + k)
  | 0, _, _, h => absurd h (Nat.not_lt_zero _)
  | n + 1, a, 0, _ => by simp [Mem.readBytes]
  | n + 1, a, k + 1, h => by
    have := Mem.readBytes_getD m n (a + 1) k (by omega)
    rw [show a + (k + 1) = a + 1 + k by omega, ← this]
    simp [Mem.readBytes]

/-- Two reads agree where every byte of the range does. -/
theorem Mem.readBytes_congr {m m' : Mem} : ∀ {n a : Nat}, (∀ x, a ≤ x → x < a + n → m.read x = m'.read x) →
    m.readBytes a n = m'.readBytes a n
  | 0, _, _ => rfl
  | n + 1, a, h => by
    simp only [Mem.readBytes]
    rw [h a (by omega) (by omega), Mem.readBytes_congr (fun x h1 h2 => h x (by omega) (by omega))]

/-- What is stored reads back. -/
theorem Mem.readBytes_writeBytes {vs : List Byte} {m : Mem} {a : Nat} (h : m.wf = true) :
    (m.writeBytes a vs).readBytes a vs.length = vs := by
  apply List.ext_getElem (by simp)
  intro k h1 h2
  have := Mem.readBytes_getD (m.writeBytes a vs) vs.length a k h2
  rw [Mem.read_writeBytes_same h h2] at this
  rw [List.getD_eq_getElem _ _ h1, List.getD_eq_getElem _ _ h2] at this
  exact this

theorem Mem.below_cell {hi a : Nat} {v : Byte} {rest : Mem} (h : a < hi) (hr : rest.below hi = true) :
    (Mem.cell a v rest).below hi = true := by
  unfold Mem.cell
  split
  · exact hr
  · simpa [Mem.below, h] using hr

theorem Mem.below_write {hi a : Nat} {v : Byte} (h : a < hi) : ∀ {m : Mem}, m.below hi = true →
    (m.write a v).below hi = true
  | [], hm => Mem.below_cell h hm
  | (b, w) :: rest, hm => by
    have hm' : b < hi ∧ Mem.below hi rest = true := by simpa [Mem.below] using hm
    unfold Mem.write
    split
    · exact Mem.below_cell h hm
    · split
      · exact Mem.below_cell h hm'.2
      · simpa [Mem.below] using And.intro hm'.1 (by simpa [Mem.below] using Mem.below_write h hm'.2)

theorem Mem.below_writeBytes {hi : Nat} {vs : List Byte} : ∀ {m : Mem} {a : Nat}, a + vs.length ≤ hi →
    m.below hi = true → (m.writeBytes a vs).below hi = true := by
  induction vs with
  | nil => intro m a _ h; exact h
  | cons v vs ih =>
    intro m a h hm
    simp only [List.length_cons] at h
    exact ih (by omega) (Mem.below_write (by omega) hm)

end Sys2Proof.Machine
end

