-- ==== Sys2Proof/Laws/PerInstr.lean ====
section
/-! SUPPORT. One lemma per command of every per-instruction family. -/

namespace Sys2Proof

/-- The row of the table of spec/30_encoding.md rule R104 a command stands for. -/
def rowOf : Instr → OpcodeRow
  | .reset => ⟨0xFFFFFFFF, 0x00000001⟩
  | .isActive => ⟨0xFFFFFFFF, 0x00000002⟩
  | .setPort _ => ⟨0xFF00FFFF, 0x00000003⟩
  | .sendCommand _ _ => ⟨0xFF0000FF, 0x00000004⟩
  | .getReply _ => ⟨0xFFFF00FF, 0x00000005⟩
  | .sendCommandBlocking _ => ⟨0xFFFF00FF, 0x00000006⟩
  | .setPortAddr _ => ⟨0xFF00FFFF, 0x00000007⟩
  | .openCookie => ⟨0xFFFFFFFF, 0x00000010⟩
  | .reOpen _ => ⟨0xFFFF00FF, 0x00000011⟩
  | .close _ => ⟨0xFFFF00FF, 0x00000012⟩
  | .setAddress _ => ⟨0xFFFF00FF, 0x00000013⟩
  | .getAddress _ => ⟨0xFFFF00FF, 0x00000014⟩
  | .sendWrite _ => ⟨0xFFFF00FF, 0x00000020⟩
  | .getWriteReply _ => ⟨0xFFFF00FF, 0x00000021⟩
  | .sendRead _ => ⟨0xFFFF00FF, 0x00000022⟩
  | .getReadReply _ => ⟨0xFFFF00FF, 0x00000023⟩
  | .writeBlocking _ => ⟨0xFFFF00FF, 0x00000024⟩
  | .readBlocking _ => ⟨0xFFFF00FF, 0x00000025⟩
  | .resetViaCookie _ => ⟨0xFFFF00FF, 0x00000026⟩

/-- A row selects a command word field by field. -/
theorem OpcodeRow.selects_commandWord {r : OpcodeRow} {op c imm : Byte} (h0 : op &&& opField r.mask = opField r.pattern)
    (h1 : c &&& cookieField r.mask = cookieField r.pattern) (h2 : imm &&& immField r.mask = immField r.pattern)
    (h3 : zeroField r.pattern = 0) : r.selects (commandWord op c imm) = true := by
  rw [OpcodeRow.selects_iff, opField_commandWord, cookieField_commandWord, immField_commandWord,
    zeroField_commandWord, h3]
  exact ⟨h0, h1, h2, BitVec.zero_and⟩

/-- The encoded word of the command selects the command's own row of the table (rule R104). -/
def Laws.EncodedRow.Statement (i : Instr) : Prop := rowOf i ∈ opcodeRows ∧ (rowOf i).selects (encode i) = true

theorem Laws.EncodedRow.reset : Laws.EncodedRow.Statement .reset := ⟨by decide, by decide⟩

theorem Laws.EncodedRow.isActive : Laws.EncodedRow.Statement .isActive := ⟨by decide, by decide⟩

theorem Laws.EncodedRow.setPort (port : Int) : Laws.EncodedRow.Statement (.setPort port) :=
  ⟨by simp [rowOf, opcodeRows],
    OpcodeRow.selects_commandWord (r := ⟨0xFF00FFFF, 0x00000003⟩) (by decide) (by decide) BitVec.and_zero (by decide)⟩

theorem Laws.EncodedRow.sendCommand (c : Nat) (instruction : Byte) :
    Laws.EncodedRow.Statement (.sendCommand c instruction) :=
  ⟨by simp [rowOf, opcodeRows],
    OpcodeRow.selects_commandWord (r := ⟨0xFF0000FF, 0x00000004⟩) (by decide) BitVec.and_zero BitVec.and_zero (by decide)⟩

theorem Laws.EncodedRow.getReply (c : Nat) : Laws.EncodedRow.Statement (.getReply c) :=
  ⟨by simp [rowOf, opcodeRows],
    OpcodeRow.selects_commandWord (r := ⟨0xFFFF00FF, 0x00000005⟩) (by decide) BitVec.and_zero (by decide) (by decide)⟩

theorem Laws.EncodedRow.sendCommandBlocking (c : Nat) : Laws.EncodedRow.Statement (.sendCommandBlocking c) :=
  ⟨by simp [rowOf, opcodeRows],
    OpcodeRow.selects_commandWord (r := ⟨0xFFFF00FF, 0x00000006⟩) (by decide) BitVec.and_zero (by decide) (by decide)⟩

theorem Laws.EncodedRow.setPortAddr (port : Int) : Laws.EncodedRow.Statement (.setPortAddr port) :=
  ⟨by simp [rowOf, opcodeRows],
    OpcodeRow.selects_commandWord (r := ⟨0xFF00FFFF, 0x00000007⟩) (by decide) (by decide) BitVec.and_zero (by decide)⟩

theorem Laws.EncodedRow.openCookie : Laws.EncodedRow.Statement .openCookie := ⟨by decide, by decide⟩

theorem Laws.EncodedRow.reOpen (c : Nat) : Laws.EncodedRow.Statement (.reOpen c) :=
  ⟨by simp [rowOf, opcodeRows],
    OpcodeRow.selects_commandWord (r := ⟨0xFFFF00FF, 0x00000011⟩) (by decide) BitVec.and_zero (by decide) (by decide)⟩

theorem Laws.EncodedRow.close (c : Nat) : Laws.EncodedRow.Statement (.close c) :=
  ⟨by simp [rowOf, opcodeRows],
    OpcodeRow.selects_commandWord (r := ⟨0xFFFF00FF, 0x00000012⟩) (by decide) BitVec.and_zero (by decide) (by decide)⟩

theorem Laws.EncodedRow.setAddress (c : Nat) : Laws.EncodedRow.Statement (.setAddress c) :=
  ⟨by simp [rowOf, opcodeRows],
    OpcodeRow.selects_commandWord (r := ⟨0xFFFF00FF, 0x00000013⟩) (by decide) BitVec.and_zero (by decide) (by decide)⟩

theorem Laws.EncodedRow.getAddress (c : Nat) : Laws.EncodedRow.Statement (.getAddress c) :=
  ⟨by simp [rowOf, opcodeRows],
    OpcodeRow.selects_commandWord (r := ⟨0xFFFF00FF, 0x00000014⟩) (by decide) BitVec.and_zero (by decide) (by decide)⟩

theorem Laws.EncodedRow.sendWrite (c : Nat) : Laws.EncodedRow.Statement (.sendWrite c) :=
  ⟨by simp [rowOf, opcodeRows],
    OpcodeRow.selects_commandWord (r := ⟨0xFFFF00FF, 0x00000020⟩) (by decide) BitVec.and_zero (by decide) (by decide)⟩

theorem Laws.EncodedRow.getWriteReply (c : Nat) : Laws.EncodedRow.Statement (.getWriteReply c) :=
  ⟨by simp [rowOf, opcodeRows],
    OpcodeRow.selects_commandWord (r := ⟨0xFFFF00FF, 0x00000021⟩) (by decide) BitVec.and_zero (by decide) (by decide)⟩

theorem Laws.EncodedRow.sendRead (c : Nat) : Laws.EncodedRow.Statement (.sendRead c) :=
  ⟨by simp [rowOf, opcodeRows],
    OpcodeRow.selects_commandWord (r := ⟨0xFFFF00FF, 0x00000022⟩) (by decide) BitVec.and_zero (by decide) (by decide)⟩

theorem Laws.EncodedRow.getReadReply (c : Nat) : Laws.EncodedRow.Statement (.getReadReply c) :=
  ⟨by simp [rowOf, opcodeRows],
    OpcodeRow.selects_commandWord (r := ⟨0xFFFF00FF, 0x00000023⟩) (by decide) BitVec.and_zero (by decide) (by decide)⟩

theorem Laws.EncodedRow.writeBlocking (c : Nat) : Laws.EncodedRow.Statement (.writeBlocking c) :=
  ⟨by simp [rowOf, opcodeRows],
    OpcodeRow.selects_commandWord (r := ⟨0xFFFF00FF, 0x00000024⟩) (by decide) BitVec.and_zero (by decide) (by decide)⟩

theorem Laws.EncodedRow.readBlocking (c : Nat) : Laws.EncodedRow.Statement (.readBlocking c) :=
  ⟨by simp [rowOf, opcodeRows],
    OpcodeRow.selects_commandWord (r := ⟨0xFFFF00FF, 0x00000025⟩) (by decide) BitVec.and_zero (by decide) (by decide)⟩

theorem Laws.EncodedRow.resetViaCookie (c : Nat) : Laws.EncodedRow.Statement (.resetViaCookie c) :=
  ⟨by simp [rowOf, opcodeRows],
    OpcodeRow.selects_commandWord (r := ⟨0xFFFF00FF, 0x00000026⟩) (by decide) BitVec.and_zero (by decide) (by decide)⟩

end Sys2Proof
end

