-- ==== Sys2Proof/Laws/Step.lean ====
section
/-! SUPPORT. What a step and a poll can do, said once. -/

namespace Sys2Proof.Machine

open Sys2Proof

variable {crc : List Byte → Byte} {run : Runner}

theorem step_of_ok {s : State} (h : s.cfg.ok = true) : step s = advance (crc8 s.cfg) exec s := if_pos h

theorem portFree_of_idle {s : State} (h : s.seq = .idle) : s.portFree = true := by simp [State.portFree, h]

theorem portFree_of_blocking {s : State} {c start timeout : Nat} (h : s.seq = .blocking c start timeout) :
    s.portFree = false := by simp [State.portFree, h]

theorem advance_write {s : State} {offset v : Word} {rest : List Input} (hs : s.seq = .idle)
    (ha : s.env.agenda = .write offset v :: rest) : advance crc run s = hostWrite run offset v (s.withAgenda rest) := by
  simp only [advance, ha, portFree_of_idle hs, ↓reduceIte]

theorem advance_read {s : State} {offset : Word} {rest : List Input} (hs : s.seq = .idle)
    (ha : s.env.agenda = .read offset :: rest) : advance crc run s = .next (hostRead offset (s.withAgenda rest)) := by
  simp only [advance, ha, portFree_of_idle hs, ↓reduceIte]

theorem hostWrite_cmd (v : Word) (s : State) : hostWrite run 0x00 v s = runWord run v s := rfl

/-- A poll that goes on: what it did and why (rules R280, R283). -/
theorem poll_next {c start timeout : Nat} {s t : State} (h : poll crc c start timeout s = .next t) :
    s.pointersInRange = true ∧
    (((getReplyBody crc c s).2.keepsWaiting = false ∧
        t = ((getReplyBody crc c s).1.setSeq .idle).raise (getReplyBody crc c s).2) ∨
      ((getReplyBody crc c s).2.keepsWaiting = true ∧ ∃ e, InputsRead 0 0 1 (getReplyBody crc c s).1.env e ∧
        ((start + timeout ≤ e.timer ∧
            t = (((getReplyBody crc c s).1.setEnv e).setSeq .idle).raise .replyTimeout) ∨
          (e.timer < start + timeout ∧ t = (getReplyBody crc c s).1.setEnv e)))) := by
  obtain ⟨hp, h⟩ := guardPointers_next.1 h
  refine ⟨hp, ?_⟩
  unfold pollBody at h
  cases hk : (getReplyBody crc c s).2.keepsWaiting with
  | false =>
    simp only [hk, Bool.false_eq_true, ↓reduceIte] at h
    exact .inl ⟨rfl, complete_next.1 h⟩
  | true =>
    simp only [hk, ↓reduceIte] at h
    obtain ⟨e, he, ht, hi⟩ := (getReplyBody crc c s).1.drawTimer_eq
    rw [he, ht] at h
    refine .inr ⟨rfl, e, hi, ?_⟩
    by_cases hd : start + timeout ≤ e.timer
    · rw [if_pos hd] at h
      exact .inl ⟨hd, complete_next.1 h⟩
    · rw [if_neg hd] at h
      injection h with h
      exact .inr ⟨by omega, h.symm⟩

/-- A register's reading changes nothing but, for `EVENT_POP`, the events (rule R76). -/
theorem readReg_eq (s : State) (reg : HostReg) : ∃ v events,
    readReg s reg = (v, { s with events := events }) ∧ (reg ≠ .eventPop → events = s.events) := by
  cases reg with
  | eventPop =>
    have hp : ∃ v events, popEvent s = (v, { s with events := events }) := by
      unfold popEvent
      split
      · exact ⟨_, s.events, rfl⟩
      · exact ⟨_, _, rfl⟩
    obtain ⟨v, events, hp⟩ := hp
    exact ⟨v, events, hp, fun h => absurd rfl h⟩
  | _ => exact ⟨_, s.events, rfl, fun _ => rfl⟩

/-- The host's read of a register gives a word and, for `EVENT_POP`, changes the events (rule R76). -/
theorem hostRead_eq (offset : Word) (s : State) : ∃ v events,
    hostRead offset s = { s with env := { s.env with readData := v }, events := events } := by
  unfold hostRead
  cases hostRegAt offset with
  | none => exact ⟨_, s.events, rfl⟩
  | some reg =>
    obtain ⟨v, events, h, -⟩ := readReg_eq s reg
    simp only [h]
    exact ⟨v, events, rfl⟩

/-- What a step can be, with any checksum and whatever runs the commands: a command, a port access, a DMA step, a change
of `HOSTMEM`, or a turn of the sequencer (log 8). -/
theorem advance_next {s t : State} (h : advance crc run s = .next t) :
    (∃ rest w i, s.seq = .idle ∧ s.env.agenda = .write 0x00 w :: rest ∧ decode w = .ok i ∧
        run i (s.withAgenda rest) = .next t) ∨
      (∃ rest w, s.seq = .idle ∧ s.env.agenda = .write 0x00 w :: rest ∧ t = (s.withAgenda rest).raise .illegalCommand) ∨
      (∃ rest offset v, s.seq = .idle ∧ s.env.agenda = .write offset v :: rest ∧
        ∃ args, t = (s.withAgenda rest).setArgs args) ∨
      (∃ rest offset, s.seq = .idle ∧ s.env.agenda = .read offset :: rest ∧
        ∃ v events, t = { s with env := { s.env with agenda := rest, readData := v }, events := events }) ∨
      (∃ rest a b, s.env.agenda = .hostMem a b :: rest ∧ t = hostMemWrite a b (s.withAgenda rest)) ∨
      (∃ rest k, s.env.agenda = .dmaTx k :: rest ∧ txEnabled s k = true ∧ s.pointersInRange = true ∧
        t = transmitted crc k (s.withAgenda rest)) ∨
      (∃ rest k, s.env.agenda = .dmaTxErr k :: rest ∧ txEnabled s k = true ∧
        t = (s.withAgenda rest).setTx k (s.txAt k).failed) ∨
      (∃ rest k pkt eep, s.env.agenda = .dmaRx k pkt eep :: rest ∧ rxEnabled s k = true ∧
        s.pointersInRange = true ∧ t = received k pkt eep (s.withAgenda rest)) ∨
      (∃ rest, s.seq = .idle ∧ t = s.withAgenda rest) ∨
      (∃ rest c start timeout, s.seq = .blocking c start timeout ∧
        poll crc c start timeout (s.withAgenda rest) = .next t) := by
  have hself : s.withAgenda s.env.agenda = s := rfl
  have hturn : ∀ rest, sequencerTurn crc (s.withAgenda rest) = .next t →
      (∃ rest, s.seq = .idle ∧ t = s.withAgenda rest) ∨
      (∃ rest c start timeout, s.seq = .blocking c start timeout ∧
        poll crc c start timeout (s.withAgenda rest) = .next t) := by
    intro rest h
    unfold sequencerTurn at h
    cases hs : s.seq with
    | idle =>
      simp only [State.withAgenda_seq, hs] at h
      injection h with h
      exact .inl ⟨rest, rfl, h.symm⟩
    | blocking c start timeout =>
      simp only [State.withAgenda_seq, hs] at h
      exact .inr ⟨rest, c, start, timeout, rfl, h⟩
  have hidle : s.portFree = true → s.seq = .idle := by
    intro hp
    simpa [State.portFree] using hp
  unfold advance at h
  cases ha : s.env.agenda with
  | nil =>
    simp only [ha] at h
    exact .inr (.inr (.inr (.inr (.inr (.inr (.inr (.inr (hturn s.env.agenda h))))))))
  | cons a rest =>
    cases a with
    | write offset v =>
      simp only [ha] at h
      split at h
      · rename_i hp
        have hs := hidle hp
        unfold hostWrite at h
        split at h
        · rename_i hr
          have h0 : offset = 0x00 := by
            unfold hostRegAt at hr
            split at hr <;> first | (cases hr; done) | skip
            rename_i h0
            exact BitVec.eq_of_toNat_eq h0
          subst h0
          unfold runWord at h
          cases hd : decode v with
          | ok i => simp only [hd] at h; exact .inl ⟨rest, v, i, hs, rfl, hd, h⟩
          | error e =>
            simp only [hd] at h
            injection h with h
            exact .inr (.inl ⟨rest, v, hs, rfl, h.symm⟩)
        · rename_i reg hn hr
          injection h with h
          refine .inr (.inr (.inl ⟨rest, offset, v, hs, rfl, ?_⟩))
          cases reg <;> exact ⟨_, h.symm⟩
        · injection h with h
          exact .inr (.inr (.inl ⟨rest, offset, v, hs, rfl, s.args, h.symm⟩))
      · exact .inr (.inr (.inr (.inr (.inr (.inr (.inr (.inr (hturn s.env.agenda h))))))))
    | read offset =>
      simp only [ha] at h
      split at h
      · rename_i hp
        have hs := hidle hp
        injection h with h
        refine .inr (.inr (.inr (.inl ⟨rest, offset, hs, rfl, ?_⟩)))
        rw [← h]
        exact hostRead_eq offset (s.withAgenda rest)
      · exact .inr (.inr (.inr (.inr (.inr (.inr (.inr (.inr (hturn s.env.agenda h))))))))
    | hostMem a b =>
      simp only [ha] at h
      injection h with h
      exact .inr (.inr (.inr (.inr (.inl ⟨rest, a, b, rfl, h.symm⟩))))
    | dmaTx k =>
      simp only [ha] at h
      unfold dmaTx at h
      split at h
      · rename_i he
        obtain ⟨hp, h⟩ := guardPointers_next.1 h
        injection h with h
        exact .inr (.inr (.inr (.inr (.inr (.inl ⟨rest, k, rfl, he, hp, h.symm⟩)))))
      · cases h
    | dmaTxErr k =>
      simp only [ha] at h
      unfold dmaTxErr at h
      split at h
      · rename_i he
        injection h with h
        exact .inr (.inr (.inr (.inr (.inr (.inr (.inl ⟨rest, k, rfl, he, h.symm⟩))))))
      · cases h
    | dmaRx k pkt eep =>
      simp only [ha] at h
      unfold dmaRx at h
      split at h
      · rename_i he
        obtain ⟨hp, h⟩ := guardPointers_next.1 h
        injection h with h
        exact .inr (.inr (.inr (.inr (.inr (.inr (.inr (.inl ⟨rest, k, pkt, eep, rfl, he, hp, h.symm⟩)))))))
      · cases h
    | poll =>
      simp only [ha] at h
      exact .inr (.inr (.inr (.inr (.inr (.inr (.inr (.inr (hturn rest h))))))))

/-- A run goes on from where its first step leads. -/
theorem core_run_succ {M : Host.Core} {s t : M.State} (h : M.step s = .next t) (k : Nat) :
    M.run (k + 1) s = M.run k t := by
  rw [Host.Core.run, h]

/-- A step of the machine of a `Config` is one of these with its parameters in range (spec/00_scope.md rules R7, R8). -/
theorem stepOf_next {cfg : Config} {s t : State} (h : stepOf cfg s = .next t) :
    cfg.ok = true ∧ advance cfg.crc8 (command cfg.crc8) (s.withParams cfg) = .next t := by
  unfold stepOf at h
  split at h
  · exact ⟨‹_›, h⟩
  · cases h

/-- A step is one of these (`advance_next`) with the parameters in range. -/
theorem step_next {s t : State} (h : step s = .next t) :
    s.cfg.ok = true ∧ advance (crc8 s.cfg) exec s = .next t := by
  unfold step stepMachine at h
  split at h
  · exact ⟨‹_›, h⟩
  · cases h

end Sys2Proof.Machine
end

