-- ==== Sys2Proof/Tests/Slice0.lean ====
section
/-! SUPPORT. Tests: the checks of WellFormed, every command's word, one-step tests against the vectors of
spec/95_test_vectors.md, and for every statement with hypotheses a state that meets them
(test_witness_<statement>). -/

namespace Sys2Proof.Tests

open Sys2Proof Sys2Proof.Machine

/-! ## WellFormed refuses -/

theorem test_illformed_port_above : (Instr.setPort 128).wellFormed = false := by decide
theorem test_illformed_port_below : (Instr.setPortAddr (-129)).wellFormed = false := by decide
theorem test_illformed_handles :
    [Instr.sendCommand 256 0x70, .getReply 256, .sendCommandBlocking 256, .reOpen 256, .close 256, .setAddress 256,
     .getAddress 256, .sendWrite 256, .getWriteReply 256, .sendRead 256, .getReadReply 256, .writeBlocking 256,
     .readBlocking 256, .resetViaCookie 256].all (fun i => !i.wellFormed) = true := by decide
theorem test_wellformed_bounds :
    [Instr.reset, .isActive, .openCookie, .setPort 127, .setPortAddr (-128), .getReply 255].all Instr.wellFormed =
      true := by decide

/-! ## Words written out from rules R101 and R104 -/

theorem test_decode_reset : decodeTableWord 32 0x00000001 = some .reset := by decide
theorem test_decode_isActive : decodeTableWord 32 0x00000002 = some .isActive := by decide
theorem test_decode_setPort : decodeTableWord 32 0x00FE0003 = some (.setPort (-2)) := by decide
theorem test_decode_sendCommand : decodeTableWord 32 0x00700104 = some (.sendCommand 1 0x70) := by decide
theorem test_decode_getReply : decodeTableWord 32 0x0000FF05 = some (.getReply 255) := by decide
theorem test_decode_sendCommandBlocking : decodeTableWord 32 0x00000206 = some (.sendCommandBlocking 2) := by decide
theorem test_decode_setPortAddr : decodeTableWord 32 0x007E0007 = some (.setPortAddr 126) := by decide
theorem test_decode_open : decodeTableWord 32 0x00000010 = some .openCookie := by decide
theorem test_decode_reOpen : decodeTableWord 32 0x00000311 = some (.reOpen 3) := by decide
theorem test_decode_close : decodeTableWord 32 0x00000412 = some (.close 4) := by decide
theorem test_decode_setAddress : decodeTableWord 32 0x00000513 = some (.setAddress 5) := by decide
theorem test_decode_getAddress : decodeTableWord 32 0x00000614 = some (.getAddress 6) := by decide
theorem test_decode_sendWrite : decodeTableWord 32 0x00000720 = some (.sendWrite 7) := by decide
theorem test_decode_getWriteReply : decodeTableWord 32 0x00000821 = some (.getWriteReply 8) := by decide
theorem test_decode_sendRead : decodeTableWord 32 0x00000922 = some (.sendRead 9) := by decide
theorem test_decode_getReadReply : decodeTableWord 32 0x00000A23 = some (.getReadReply 10) := by decide
theorem test_decode_writeBlocking : decodeTableWord 32 0x00000B24 = some (.writeBlocking 11) := by decide
theorem test_decode_readBlocking : decodeTableWord 32 0x00000C25 = some (.readBlocking 12) := by decide
theorem test_decode_resetViaCookie : decodeTableWord 32 0x00000D26 = some (.resetViaCookie 13) := by decide

/-- Words of rule R105: an opcode of no row, a field that must be 0 and is not. -/
theorem test_decode_illegal :
    [0x00000000, 0x00000008, 0x00000027, 0x01000001, 0x00000101, 0x00010002, 0x00000103, 0x00010005, 0x00000110,
     0x00010026].all (fun w => decodeTableWord 32 w == none) = true := by decide

/-! ## Small states: configuration S of spec/95_test_vectors.md -/

/-- The state after an outcome. -/
def after : Host.Outcome State Fault Refusal → State
  | .next t => t
  | .fault _ | .refused _ => State.reset

/-- The outcome is a next state. -/
def goesOn : Host.Outcome State Fault Refusal → Bool
  | .next _ => true
  | .fault _ | .refused _ => false
theorem next_of_goesOn {o : Host.Outcome State Fault Refusal} (h : goesOn o = true) : ∃ t, o = .next t := by
  cases o with
  | next t => exact ⟨t, rfl⟩
  | fault _ => simp [goesOn] at h
  | refused _ => simp [goesOn] at h
theorem next_after {o : Host.Outcome State Fault Refusal} (h : goesOn o = true) : o = .next (after o) := by
  cases o with
  | next t => rfl
  | fault _ => simp [goesOn] at h
  | refused _ => simp [goesOn] at h

/-- The link runs, no status bit is set, the timer stands still. -/
def world (l : List Input) : Env := ⟨l, [5, 5, 5], [0, 0], [0, 0], 0, 0, 0⟩

/-- Port 0 bound, cookie 0 open at address `0x1000`, the next transaction id as given. -/
def bound (tid : Half) (args : Args) (l : List Input) : State :=
  { State.reset with
    regs := { State.reset.regs with port := 0, hkPort := 0, tidNext := tid }
    args := args
    ctx := [{ Ctx.zero with valid := true, addr := 0x1000 }, Ctx.zero, Ctx.zero, Ctx.zero]
    env := world l }

/-- `ARG_PTR` 0x2000 and `ARG_LEN` 4, an OPEN operand set, timeout 0. -/
def operands : Args := ⟨0x2000, 4, 0, 0x3000, 0x31300810, 32⟩

/-- After a command. -/
def did (i : Instr) (s : State) : State := after (exec i s)

/-- After a DMA step. -/
def dma (a : Input) (s : State) : State := after (step { s with env := world [a] })

/-- The good write reply V13 and the good read reply `RR`. -/
def goodWrite : List Byte := [0x67, 0x01, 0x30, 0x00, 0xFE, 0x00, 0x01, 0x8E]
def goodRead : List Byte :=
  [0x67, 0x01, 0x10, 0x00, 0xFE, 0x00, 0x02, 0x00, 0x00, 0x00, 0x04, 0x1E, 0x11, 0x22, 0x33, 0x44, 0xCA]

def idle : State := bound 1 operands []
def wrote : State := did (.sendWrite 0) idle
def wroteSent : State := dma (.dmaTx 0) wrote
def wroteReplied : State := dma (.dmaRx 0 goodWrite false) wroteSent
def readSent : State := dma (.dmaTx 0) (did (.sendRead 0) (bound 2 operands []))
def readReplied : State := dma (.dmaRx 0 goodRead false) readSent
def waiting : State := did (.sendCommandBlocking 0) idle

/-! ## One step -/

/-- V40: RESET with nothing reserved. -/
theorem test_reset_empty : (did .reset idle).res.result = 0x0000 ∧ (did .reset idle).events = [] := by decide
/-- V42: two replies missed. -/
theorem test_reset_missed_two :
    (did .reset (did (.sendWrite 0) wrote)).res.result = 0x010D ∧
    (did .reset (did (.sendWrite 0) wrote)).events = [⟨.missedReplies, 2⟩] ∧
    (did .reset (did (.sendWrite 0) wrote)).regs.arenaPtr = 0 := by decide
/-- V46: the link is down and two status bits are set. -/
theorem test_reset_events :
    (did .reset { idle with env := ⟨[], [0], [0x104], [], 0, 0, 0⟩ }).events =
      [⟨.linkDown, 0⟩, ⟨.spwDisconnect, 0⟩, ⟨.dmaError, 1⟩] := by decide
/-- V49, V54, V55. -/
theorem test_isActive : (did .isActive State.reset).res.result = 0x0104 ∧ (did .isActive idle).res.result = 0x0000 ∧
    (did .isActive { idle with env := ⟨[], [1], [], [], 0, 0, 0⟩ }).res.result = 0x010D := by decide
/-- V50, V51: ports outside the list. -/
theorem test_setPort_range : (did (.setPort 2) State.reset).res.result = 0x0105 ∧
    (did (.setPort (-2)) State.reset).res.result = 0x0105 ∧ (did (.setPort 2) State.reset).events = [] := by decide
/-- V53. -/
theorem test_setPort_binds :
    (did (.setPort 0) { State.reset with env := world [] }).regs.port = 0 ∧
    (did (.setPort 0) { State.reset with env := world [] }).portReg = [⟨64, 0x67⟩, ⟨0, 0⟩] ∧
    (did (.setPort 0) { State.reset with env := world [] }).events = [⟨.portSwitch, 0⟩] := by decide
/-- V57: deactivation. -/
theorem test_setPort_off : (did (.setPort (-1)) idle).regs.port = 0xFF ∧
    (did (.setPort (-1)) idle).regs.hkPort = 0xFF ∧
    (did (.setPort (-1)) idle).events = [⟨.portSwitch, -1⟩] := by decide
/-- V56: the addresses come from `ARG_MISC`. -/
theorem test_setPortAddr : (did (.setPortAddr 0) idle).regs.destAddr = 0x30 ∧
    (did (.setPortAddr 0) idle).regs.srcAddr = 0x31 ∧
    (did (.setPortAddr 0) idle).portReg = [⟨64, 0x31⟩, ⟨0, 0⟩] := by decide
/-- V65: a write of the widest length; header, descriptors, pointers. -/
theorem test_sendCommand_write :
    (did (.sendCommand 0 0x70) (bound 1 ⟨0x10, 0xFFFFFF, 0, 0, 0, 0⟩ [])).txAt 0 = ⟨0xD, 1, 0xFFFFFF, 0x10⟩ ∧
    (did (.sendCommand 0 0x70) (bound 1 ⟨0x10, 0xFFFFFF, 0, 0, 0, 0⟩ [])).rxAt 0 = ⟨1, 0, 8⟩ ∧
    ((did (.sendCommand 0 0x70) (bound 1 ⟨0x10, 0xFFFFFF, 0, 0, 0, 0⟩ [])).ctxAt 0).hdr.bytes =
      [0xFE, 0x01, 0x70, 0x00, 0x67, 0x00, 0x01, 0x00, 0x00, 0x00, 0x10, 0x00, 0xFF, 0xFF, 0xFF, 0x00] := by decide
/-- V66, V67: the longest read that passes is 51 bytes. -/
theorem test_sendCommand_read_bound :
    (did (.sendCommand 0 0x50) (bound 2 ⟨0, 52, 0, 0, 0, 0⟩ [])).res.result = 0x0206 ∧
    (did (.sendCommand 0 0x50) (bound 2 ⟨0, 51, 0, 0, 0, 0⟩ [])).rxAt 0 = ⟨1, 0, 64⟩ ∧
    (did (.sendCommand 0 0x50) (bound 2 ⟨0, 51, 0, 0, 0, 0⟩ [])).regs.arenaPtr = 64 := by decide
/-- Program P1: a write reply delivers no payload. -/
theorem test_getReply_write : (did (.getReply 0) wroteReplied).res = ⟨0x0000, 0, 0, 0⟩ ∧
    (did (.getReply 0) wroteReplied).ftAt 0 = 0x0001 := by decide +kernel
/-- Program P2: a read reply delivers four bytes at 12. -/
theorem test_getReply_read : (did (.getReply 0) readReplied).res = ⟨0x0000, 12, 4, 0⟩ ∧
    (did (.getReply 0) readReplied).arena.readBytes 12 4 = [0x11, 0x22, 0x33, 0x44] := by decide +kernel
/-- Rule R284: a pointer asks for a write, the sequencer waits. -/
theorem test_sendCommandBlocking : waiting.seq = .blocking 0 0 0 ∧ (waiting.ctxAt 0).hdr.instruction = 0x70 ∧
    (waiting.txAt 0) = ⟨0xD, 1, 4, 0x2000⟩ := by decide
/-- Rule R290's example: the lowest free context. -/
theorem test_open : (did .openCookie idle).res.retVal = 1 ∧
    (did .openCookie idle).ctxAt 1 = ⟨true, Header.zero, 0x3000, 0x10, 0x08, 32, false, 0, 0⟩ := by decide
/-- Rule R293's example. -/
theorem test_reOpen : ((did (.reOpen 0) idle).ctxAt 0).addr = 0x3000 ∧
    ((did (.reOpen 0) idle).ctxAt 0).maxlen = 32 ∧
    (did (.reOpen 0) { idle with regs := { idle.regs with port := 0xFF } }).res.result = 0x0104 := by decide
/-- Rule R295's example. -/
theorem test_close : ((did (.close 0) idle).ctxAt 0).valid = false ∧
    (did (.close 0) (did (.close 0) idle)).res.result = 0x0101 := by decide
/-- Rule R297. -/
theorem test_setAddress : ((did (.setAddress 0) idle).ctxAt 0).addr = 0x3000 := by decide
/-- Rule R298. -/
theorem test_getAddress : (did (.getAddress 0) idle).res.retVal = 0x1000 := by decide
/-- Rule R312: the null pointer comes first. -/
theorem test_sendWrite : (did (.sendWrite 9) { idle with args := ⟨0, 4, 0, 0, 0, 0⟩ }).res.result = 0x010E ∧
    (wrote.ctxAt 0).hdr.instruction = 0x70 ∧ wrote.regs = ⟨0, 0xFE, 0x67, 0, 1, 1, 8, 2⟩ := by decide
/-- Rule R313's example. -/
theorem test_getWriteReply : (did (.getWriteReply 0) wroteReplied).res.result = 0x0000 ∧
    (did (.getWriteReply 0) readReplied).res.result = 0x010B := by decide +kernel
/-- Rule R314: the pointer is not used. -/
theorem test_sendRead : (did (.sendRead 0) (bound 2 operands [])).txAt 0 = ⟨0x5, 1, 0, 0⟩ ∧
    (did (.sendRead 0) (bound 2 operands [])).rxAt 0 = ⟨1, 0, 17⟩ := by decide
/-- Rule R315's example. -/
theorem test_getReadReply : (did (.getReadReply 0) readReplied).res = ⟨0x0000, 12, 4, 0⟩ ∧
    (did (.getReadReply 0) wroteReplied).res.result = 0x010B := by decide +kernel
/-- Rule R316. -/
theorem test_writeBlocking : (did (.writeBlocking 0) idle).seq = .blocking 0 0 0 ∧
    (did (.writeBlocking 0) { idle with args := ⟨0, 4, 0, 0, 0, 0⟩ }).res.result = 0x010E := by decide
/-- Rule R317: a read whatever `ARG_PTR` says. -/
theorem test_readBlocking : ((did (.readBlocking 0) idle).ctxAt 0).hdr.instruction = 0x50 ∧
    (did (.readBlocking 0) idle).seq = .blocking 0 0 0 := by decide
/-- Rule R319. -/
theorem test_resetViaCookie : (did (.resetViaCookie 0) wrote).res.result = 0x0000 ∧
    (did (.resetViaCookie 0) wrote).events = [⟨.missedReplies, 1⟩] ∧
    (did (.resetViaCookie 1) wrote).res.result = 0x0101 := by decide

/-- V1 to V9: the default checksum. -/
theorem test_crc8 : crc8Standard [] = 0 ∧ crc8Standard [0x01] = 0x91 ∧ crc8Standard [0x80] = 0xE0 ∧
    crc8Standard [0x67, 0x01, 0x30, 0x00, 0xFE, 0x00, 0x01] = 0x8E ∧
    crc8Standard [0xAA, 0xBB, 0xCC, 0xDD] = 0x47 := by decide +kernel

/-- V6: the table of rule R262's polynomial computes the default checksum and is accepted. -/
theorem test_crc8Table :
    ({ Build.standard with crc := .table ((List.range 256).map fun i => crc8Bits 8 (BitVec.ofNat 8 i)) } : Build).ok =
      true ∧
    crc8Table ((List.range 256).map fun i => crc8Bits 8 (BitVec.ofNat 8 i)) [0x67, 0x01, 0x30, 0x00, 0xFE, 0x00, 0x01] =
      0x8E := by decide +kernel

/-- The entry after a packet in a slot of the given capacity, with a checksum. -/
def entryBy (crc : List Byte → Byte) (cap : Word) (pkt : List Byte) (eep : Bool) : Half :=
  (classify crc 1 (dma (.dmaRx 1 pkt eep) (idle.setRx 1 ⟨1, 16, cap⟩))).ftAt 1

/-- The same with the default checksum. -/
def entryOf : Word → List Byte → Bool → Half := entryBy crc8Standard

/-- V14, V17, V19, V28, V39. -/
theorem test_classify : entryOf 8 [0x66, 0x01, 0x30, 0x00, 0xFE, 0x00, 0x01, 0x8E] false = 0x0031 ∧
    entryOf 8 [0x67, 0x01, 0x10, 0x00, 0xFE, 0x00, 0x01, 0x7F] false = 0x0801 ∧
    entryOf 8 [0x67, 0x01, 0x70, 0x02, 0xFE, 0x00, 0x01, 0x74] false = 0x0101 ∧
    entryOf 8 goodRead false = 0x0815 ∧
    entryOf 8 [0x00, 0x00, 0xFF, 0x02, 0x00, 0x00, 0x00, 0x00] true = 0x0373 := by decide +kernel

/-- Program P1: the packet on the wire. -/
theorem test_dma_tx :
    (dma (.dmaTx 0)
      { wrote with hostMem := [(0x2000, 0xAA), (0x2001, 0xBB), (0x2002, 0xCC), (0x2003, 0xDD)] }).wire =
    [[0xFE, 0x01, 0x70, 0x00, 0x67, 0x00, 0x01, 0x00, 0x00, 0x00, 0x10, 0x00, 0x00, 0x00, 0x04, 0xD9,
      0xAA, 0xBB, 0xCC, 0xDD, 0x47]] := by decide +kernel

/-- The word that is stored where step finds its next command runs from reset (spec/70_reset_and_hazards.md rule
R391: the channel starts deactivated). -/
theorem test_first_command : (after (step (State.reset.withFetchWord 32 0x00000002))).res.result = 0x0104 := by decide

/-! ## Witnesses: states and operands that meet the hypotheses of the statements -/

theorem bound_txAt (tid : Half) (args : Args) (l : List Input) (t : Nat) :
    (bound tid args l).txAt t = TxDesc.zero := by
  rcases t with _ | _ | _ | _ | t <;> rfl
theorem bound_rxAt (tid : Half) (args : Args) (l : List Input) (i : Nat) :
    (bound tid args l).rxAt i = RxDesc.zero := by
  rcases i with _ | _ | _ | _ | i <;> rfl
theorem bound_ftAt (tid : Half) (args : Args) (l : List Input) (i : Nat) : (bound tid args l).ftAt i = 0 := by
  rcases i with _ | _ | _ | _ | i <;> rfl

/-- Rule R57 holds of a state whose rings are empty, slot by slot. -/
theorem runInv_bound (tid : Half) (args : Args) (l : List Input) : RunInv (bound tid args l) where
  config := (by decide : Build.standard.ok = true)
  txLength := rfl
  rxLength := rfl
  ftLength := rfl
  ctxLength := rfl
  portLength := rfl
  port := .inr (by decide : (0 : Byte).toNat < 2)
  txIndex := Nat.zero_le _
  rxIndex := Nat.zero_le _
  arenaPtr := Nat.zero_le _
  unreserved := fun i _ => ⟨bound_rxAt .., bound_ftAt ..⟩
  layout := ⟨[], rfl, rfl, fun i h => absurd h (Nat.not_lt_zero i), fun i h => absurd h (Nat.not_lt_zero i),
    fun i h => absurd h (Nat.not_lt_zero i)⟩
  classifiedReady := fun i => by rw [bound_ftAt]; exact fun h => absurd h (by decide)
  entryReserved := fun i => by rw [bound_ftAt]; decide
  txReserved := fun i => by rw [bound_txAt]; decide
  rxReserved := fun i => by rw [bound_rxAt]; decide
  enabledNoError := fun i => by rw [bound_txAt]; decide
  keyAndCrc := fun c => by rcases c with _ | _ | _ | _ | c <;> exact ⟨rfl, rfl⟩
  pointers := (by decide : idle.pointersInRange = true)
  arenaForm := rfl
  arenaExtent := rfl
  hostForm := rfl
  hostExtent := rfl
  sequencer := trivial

theorem test_witness_DecodeEncode : (Instr.setPort (-128)).wellFormed = true ∧
    (Instr.sendWrite 255).wellFormed = true ∧ (Instr.sendCommand 255 0xFF).wellFormed = true := by decide

theorem test_witness_EncodeOfDecoded : decode 0x0080FF04 = .ok (.sendCommand 255 0x80) := rfl

theorem test_witness_StepRunsTheCommand :
    (bound 1 operands [.write 0x00 0x00000020, .poll]).cfg.ok = true ∧
    (bound 1 operands [.write 0x00 0x00000020, .poll]).seq = .idle ∧
    (bound 1 operands [.write 0x00 0x00000020, .poll]).env.agenda = .write 0x00 0x00000020 :: [.poll] ∧
    decode 0x00000020 = .ok (.sendWrite 0) := ⟨by decide, rfl, rfl, rfl⟩

theorem test_witness_IllegalWordChangesOnlyResult :
    (bound 1 operands [.write 0x00 0x01000001]).cfg.ok = true ∧
    (bound 1 operands [.write 0x00 0x01000001]).seq = .idle ∧
    (bound 1 operands [.write 0x00 0x01000001]).env.agenda = .write 0x00 0x01000001 :: [] ∧
    ∀ r ∈ opcodeRows, r.selects 0x01000001 = false := by decide

theorem test_witness_BadParametersAreRefused :
    ({ State.reset with cfg := { Build.standard with arenaHeadroom := 63 } } : State).cfg.ok = false ∧
    ¬(13 ≤ ({ Build.standard with maxPacketLen := 12 } : Build).maxPacketLen) ∧
    ¬(({ Build.standard with maxPacketLen := 2 ^ 24 + 13 } : Build).maxPacketLen ≤ 2 ^ 24 + 12) ∧
    ¬(({ Build.standard with arenaHeadroom := 63 } : Build).maxPacketLen ≤ 63) ∧
    ¬(({ Build.standard with arenaSize := 2 ^ 32 } : Build).arenaSize < 2 ^ 32) := by decide

/-- The constant checksum breaks law (c). -/
theorem test_witness_BadParametersAreRefused_crc :
    ¬CrcLaws (crc8 { Build.standard with crc := .table (List.replicate 256 0) }) := fun h =>
  h.writeReply (List.replicate 8 0) ((List.replicate 8 0).set 0 1) ⟨0, 1, by decide, by decide, rfl⟩ rfl
    (by decide +kernel) (by decide +kernel)

theorem test_witness_IdleControllerWaits :
    State.reset.cfg.ok = true ∧ State.reset.seq = .idle ∧ State.reset.env.agenda = [] := by decide

/-- A blocking command runs and the host offers an access, a write or a read; the step answers a next state. -/
theorem test_witness_PortWaitsWhileBlocking :
    waiting.cfg.ok = true ∧ waiting.seq = .blocking 0 0 0 ∧
    ({ waiting with env := world [.write 0x00 2] } : State).env.agenda = .write 0x00 2 :: [] ∧
    ({ waiting with env := world [.read 0x20] } : State).env.agenda = .read 0x20 :: [] ∧
    (∃ t, step { waiting with env := world [.write 0x00 2] } = .next t) ∧
    (∃ t, step { waiting with env := world [.read 0x20] } = .next t) :=
  ⟨by decide, by decide, rfl, rfl, ⟨_, rfl⟩, ⟨_, rfl⟩⟩

theorem test_witness_PowerOnState :
    State.reset = State.powerOn Build.standard (Unspecified.zero Build.standard) := rfl

/-- For the statements about power-on and about runs from it. -/
theorem test_witness_InvAtPowerOn :
    Build.standard.ok = true ∧ UnspecifiedOk Build.standard (Unspecified.zero Build.standard) :=
  ⟨by decide, ⟨rfl, rfl, rfl, rfl, rfl⟩⟩

/-- What the environment does in the run below. -/
def firstSend : Unspecified :=
  { Unspecified.zero Build.standard with
    env := world [.write 0x00 0x00000003, .write 0x00 0x00000010, .write 0x00 0x00000022] }

/-- A run of three steps from power-on that binds a port, opens a cookie and reserves a slot: both sides of rule R57
are met, slot 0 below `RX_INDEX` and enabled, slot 1 at it. -/
theorem test_witness_RunsMeetRule57 :
    UnspecifiedOk Build.standard firstSend ∧
    ∃ t, Host.Core.run Sys2Proof.core 3 (State.powerOn Build.standard firstSend) = .next t ∧
      t.regs.rxIndex = 1 ∧ (t.rxAt 0).en = true :=
  ⟨⟨rfl, rfl, rfl, rfl, rfl⟩, _, rfl, by decide +kernel⟩

theorem test_witness_StepKeepsInv : RunInv (bound 1 operands [.write 0x00 0x00000020]) ∧
    ∃ t, step (bound 1 operands [.write 0x00 0x00000020]) = .next t := ⟨runInv_bound .., _, rfl⟩

theorem test_witness_InvStepsComplete : RunInv (bound 1 operands [.dmaTx 0]) := runInv_bound ..

/-- A checksum no table gives: each byte minus the register, modulo 256. -/
def differenceConfig : Config where
  toParams := Build.standard.toParams
  crc8 := fun m => m.foldl (fun c b => b - c) 0
  laws := CrcLaws.of_foldl (fun _ => BitVec.sub_self _) (fun a b x h => by bv_omega) (fun a x y h => by bv_omega)

/-- The `Config` a state with the default checksum names. -/
def defaultConfig : Config where
  toParams := Build.standard.toParams
  crc8 := crc8Standard
  laws := CrcLaws.of_foldl crc8Step_self
    (fun a b x h => by
      have he : crc8Step (a ^^^ b) (x ^^^ x) = 0 := by rw [crc8Step_xor, h, BitVec.xor_self]; rfl
      rw [BitVec.xor_self] at he
      exact BitVec.xor_eq_zero_iff.1 (crc8Step_eq_zero he))
    (fun a x y h => by
      have he : crc8Step (a ^^^ a) (x ^^^ y) = 0 := by rw [crc8Step_xor, h, BitVec.xor_self]; rfl
      rw [BitVec.xor_self] at he
      exact BitVec.xor_eq_zero_iff.1 (crc8Step_eq_zero he).symm)

/-- A reply with its CRC by one function passes with that function and fails with another (rule R260). -/
theorem test_any_crc8 :
    entryBy differenceConfig.crc8 8 (writeReply differenceConfig.crc8 0x67 0xFE 0x70 0x00 1) false = 0x0001 ∧
    entryOf 8 (writeReply differenceConfig.crc8 0x67 0xFE 0x70 0x00 1) false = 0x0011 := by decide +kernel

/-- The machine of a checksum that no table gives takes a step, it is offered a DMA step that is not enabled, and the
checksum of the default is named by the state. -/
theorem test_witness_EveryConfigIsAMachine :
    differenceConfig.ok = true ∧
    UnspecifiedOk (powerOnOf differenceConfig (Unspecified.zero Build.standard)).cfg (Unspecified.zero Build.standard) ∧
    RunInv (bound 1 operands [.write 0x00 0x00000020]) ∧
    (bound 1 operands [.write 0x00 0x00000020]).cfg.toParams = differenceConfig.toParams ∧
    (∃ t, stepOf differenceConfig (bound 1 operands [.write 0x00 0x00000020]) = .next t) ∧
    RunInv (bound 1 operands [.dmaTx 0]) ∧
    stepOf differenceConfig (bound 1 operands [.dmaTx 0]) = .refused .dmaNotEnabled ∧
    (bound 1 operands [.write 0x00 0x00000020]).cfg.toParams = defaultConfig.toParams ∧
    crc8 (bound 1 operands [.write 0x00 0x00000020]).cfg = defaultConfig.crc8 :=
  ⟨by decide, ⟨rfl, rfl, rfl, rfl, rfl⟩, runInv_bound .., rfl, ⟨_, rfl⟩, runInv_bound .., rfl, rfl, rfl⟩

theorem test_witness_CommandsLeaveAlone : ∃ t, exec (.getReply 0) wroteReplied = .next t := ⟨_, rfl⟩

/-- Each clause: OPEN of a free context, CLOSE, the address, the length, the header of a cookie that sends. -/
theorem test_witness_CookieLifecycle :
    (∃ t, exec .openCookie idle = .next t ∧ (idle.ctxAt 1).valid = false ∧ (t.ctxAt 1).valid = true ∧
      (t.ctxAt 1).ext ≠ (idle.ctxAt 1).ext ∧ (t.ctxAt 1).mask ≠ (idle.ctxAt 1).mask) ∧
    (∃ t, exec (.close 0) idle = .next t ∧ (idle.ctxAt 0).valid = true ∧ (t.ctxAt 0).valid = false) ∧
    (∃ t, exec (.reOpen 0) idle = .next t ∧ (t.ctxAt 0).addr ≠ (idle.ctxAt 0).addr ∧
      (t.ctxAt 0).maxlen ≠ (idle.ctxAt 0).maxlen) ∧
    (∃ t, exec (.sendWrite 0) idle = .next t ∧ (t.ctxAt 0).hdr ≠ (idle.ctxAt 0).hdr) :=
  ⟨⟨_, rfl, by decide⟩, ⟨_, rfl, by decide⟩, ⟨_, rfl, by decide⟩, ⟨_, rfl, by decide⟩⟩

theorem test_witness_RingsMoveOnlyBySendsAndResets :
    (∃ t, exec (.getReply 0) wroteReplied = .next t ∧ sends (.getReply 0) = false ∧
      resetsChannel (.getReply 0) = false) ∧
    (∃ t, exec .reset wrote = .next t ∧ resetsChannel .reset = true) :=
  ⟨⟨_, rfl, rfl, rfl⟩, ⟨_, rfl, rfl⟩⟩

/-- A closed cookie, a handle past the file, and the null pointer in front of it. -/
theorem test_witness_InvalidCookieIsRefused :
    (handleOperand (.getReply 1) = some 1 ∧ ¬(1 < idle.cfg.nCookies ∧ (idle.ctxAt 1).valid = true)) ∧
    (handleOperand (.sendWrite 4) = some 4 ∧ ¬(4 < idle.cfg.nCookies ∧ (idle.ctxAt 4).valid = true) ∧
      checksPointer (.sendWrite 4) = true ∧ idle.args.ptr ≠ 0 ∧
      (bound 1 ⟨0, 4, 0, 0, 0, 0⟩ []).args.ptr = 0) := by
  decide

theorem test_witness_NullPointerIsRefused :
    checksPointer (.writeBlocking 0) = true ∧ (bound 1 ⟨0, 4, 0, 0, 0, 0⟩ []).args.ptr = 0 := by decide

/-- One state for each line of the decision list, each at the boundary of the line before it. -/
theorem test_witness_SendCommandDecides :
    (did (.sendCommand 1 0x70) idle).res.result = 0x0101 ∧
    (did (.sendCommand 0 0x70) { idle with regs := { idle.regs with port := 0xFF } }).res.result = 0x0104 ∧
    (did (.sendCommand 0 0x70) (bound 1 ⟨0, 0x1000000, 0, 0, 0, 0⟩ [])).res.result = 0x0206 ∧
    (did (.sendCommand 0 0x50) (bound 1 ⟨0, 52, 0, 0, 0, 0⟩ [])).res.result = 0x0206 ∧
    (did (.sendCommand 0 0x70) { idle with regs := { idle.regs with arenaPtr := 193 } }).res.result = 0x0103 ∧
    (did (.sendCommand 0 0x70) { idle with regs := { idle.regs with rxIndex := 4 } }).events =
      [⟨.noRxDescriptors, 4⟩] ∧
    (did (.sendCommand 0 0x70) { idle with regs := { idle.regs with txIndex := 4 } }).res.result = 0x0102 ∧
    (did (.sendCommand 0 0x70) { idle with tx := wrote.tx }).res.result = 0x0102 ∧
    (did (.sendCommand 0 0x70)
      { idle with regs := { idle.regs with arenaPtr := 192, rxIndex := 3, txIndex := 3 } }).res.result = 0x0000 := by
  decide

/-- Every check of a send passes: a write, and a read of 51 bytes, the longest there is. -/
theorem accepts_write (instruction : Byte) (h : instruction.getLsbD 5 = true) :
    SendAccepts 0 instruction operands.len 0 idle where
  cookie := by decide
  port := by decide
  length := by
    have h0 : (idle.ctxAt 0).mask = 0 := rfl
    rw [h0, show instruction ||| 0 = instruction by simp, if_pos h]; decide
  headroom := by decide
  rxSlot := by decide
  txSlot := .inl ⟨by decide, rfl⟩
  free := by decide
theorem accepts_read : SendAccepts 0 0x50 51 0 (bound 1 ⟨0, 51, 0, 0, 0, 0⟩ []) where
  cookie := by decide
  port := by decide
  length := by decide
  headroom := by decide
  rxSlot := by decide
  txSlot := .inl ⟨by decide, rfl⟩
  free := by decide

theorem test_witness_SendCommandPrograms : SendAccepts 0 0x70 idle.args.len 0 idle := accepts_write 0x70 (by decide)

/-- A ring of 64 that has been used up wraps to slot 0. -/
theorem test_witness_SendCommandPrograms_wrap :
    SendAccepts 0 0x70 operands.len 0
      { idle with
        cfg := { Build.standard with maxTx := 64 }
        tx := List.replicate 64 TxDesc.zero
        regs := { idle.regs with txIndex := 64 } } where
  cookie := by decide
  port := by decide
  length := by decide
  headroom := by decide
  rxSlot := by decide
  txSlot := .inr ⟨by decide, rfl, rfl⟩
  free := by decide

theorem test_witness_FacadeSendsProgram : idle.args.ptr ≠ 0 ∧ SendAccepts 0 0x70 idle.args.len 0 idle ∧
    SendAccepts 0 0x50 51 0 (bound 1 ⟨0, 51, 0, 0, 0, 0⟩ []) :=
  ⟨by decide, accepts_write 0x70 (by decide), accepts_read⟩

/-- All three commands, and SEND_COMMAND_BLOCKING as a read. -/
theorem test_witness_BlockingCommandsSend :
    (0x70 : Byte) = (if idle.args.ptr = 0 then 0x50 else 0x70) ∧ idle.args.ptr ≠ 0 ∧
    SendAccepts 0 0x70 idle.args.len 0 idle ∧
    (0x50 : Byte) = (if (bound 1 ⟨0, 51, 0, 0, 0, 0⟩ []).args.ptr = 0 then 0x50 else 0x70) ∧
    SendAccepts 0 0x50 (bound 1 ⟨0, 51, 0, 0, 0, 0⟩ []).args.len 0 (bound 1 ⟨0, 51, 0, 0, 0, 0⟩ []) :=
  ⟨by decide, by decide, accepts_write 0x70 (by decide), by decide, accepts_read⟩

theorem test_witness_BlockingRefusedAsSend : ∀ t, ¬SendAccepts 0 0x50 State.reset.args.len t State.reset :=
  fun _ h => absurd h.cookie (by decide)

theorem test_witness_BlockingRefusedAsSend_write :
    idle.args.ptr ≠ 0 ∧ ∀ t, ¬SendAccepts 1 0x70 idle.args.len t idle :=
  ⟨by decide, fun _ h => absurd h.cookie (by decide)⟩

/-- A cookie that is not open, a payload too long, a read too long. -/
theorem test_witness_FacadeSendRefusedAsSend :
    (idle.args.ptr ≠ 0 ∧ ∀ t, ¬SendAccepts 1 0x70 idle.args.len t idle) ∧
    (∀ t, ¬SendAccepts 0 0x70 0x1000000 t (bound 1 ⟨0x2000, 0x1000000, 0, 0, 0, 0⟩ [])) ∧
    ∀ t, ¬SendAccepts 0 0x50 52 t (bound 1 ⟨0, 52, 0, 0, 0, 0⟩ []) :=
  ⟨⟨by decide, fun _ h => absurd h.cookie (by decide)⟩, fun _ h => absurd h.length (by decide),
    fun _ h => absurd h.length (by decide)⟩

theorem test_witness_ReservedSlotInsideArena : idle.cfg.ok = true ∧ idle.rx.length = idle.cfg.maxRx ∧
    SendAccepts 0 0x70 idle.args.len 0 idle ∧ ∃ u, exec (.sendCommand 0 0x70) idle = .next u :=
  ⟨by decide, rfl, accepts_write 0x70 (by decide), _, rfl⟩

/-- A write reply and a read reply found in slot 0. -/
theorem test_witness_GetReplyDelivers :
    (0 < wroteReplied.cfg.nCookies ∧ (wroteReplied.ctxAt 0).valid = true ∧ wroteReplied.pointersInRange = true ∧
      wroteReplied.ft.length = wroteReplied.cfg.maxRx ∧ (wroteReplied.ctxAt 0).hdr.instruction.getLsbD 5 = true ∧
      firstMatch crc8Standard wroteReplied 0 = some 0) ∧
    (0 < readReplied.cfg.nCookies ∧ (readReplied.ctxAt 0).valid = true ∧ readReplied.pointersInRange = true ∧
      readReplied.ft.length = readReplied.cfg.maxRx ∧ (readReplied.ctxAt 0).hdr.instruction.getLsbD 5 = false ∧
      firstMatch crc8Standard readReplied 0 = some 0) ∧
    TxCheckPasses wroteReplied 0 ∧ TxCheckPasses readReplied 0 :=
  ⟨by decide +kernel, by decide +kernel, fun _ => by decide, fun _ => by decide⟩

theorem test_witness_GetReplyFindsNothing :
    (0 < wroteSent.cfg.nCookies ∧ (wroteSent.ctxAt 0).valid = true ∧ wroteSent.pointersInRange = true ∧
      wroteSent.ft.length = wroteSent.cfg.maxRx ∧ firstMatch crc8Standard wroteSent 0 = none) ∧ TxCheckPasses wroteSent 0 :=
  ⟨by decide +kernel, fun _ => by decide⟩

/-- Still enabled, and completed with a link error. -/
theorem test_witness_GetReplyBeforeTransmission :
    (TxSlotOurs wrote 0 ∧ (wrote.txAt 0).en = true ∧ wrote.pointersInRange = true) ∧
    (TxSlotOurs (dma (.dmaTxErr 0) wrote) 0 ∧ ((dma (.dmaTxErr 0) wrote).txAt 0).en = false ∧
      ((dma (.dmaTxErr 0) wrote).txAt 0).le = true ∧ (dma (.dmaTxErr 0) wrote).pointersInRange = true) := by
  unfold TxSlotOurs
  decide

theorem test_witness_GetReplyRepeats : (∃ t, exec (.getReply 0) readReplied = .next t) ∧
    ∃ t, exec (.getReply 0) (dma (.dmaTxErr 0) wrote) = .next t :=
  ⟨next_of_goesOn (by decide +kernel), next_of_goesOn (by decide +kernel)⟩

theorem test_witness_DirectionMismatch :
    ((wrote.ctxAt 0).valid = true ∧ (wrote.ctxAt 0).hdr.instruction.getLsbD 5 = true) ∧
    ((idle.ctxAt 0).valid = true ∧ (idle.ctxAt 0).hdr.instruction.getLsbD 5 = false) ∧ 0 < idle.cfg.nCookies := by
  decide

/-- A slot with `n` bytes stored, completed. -/
def stored (n : Word) : State := idle.setRx 1 ⟨0, 16, n⟩

/-- Every length class at its bounds: 7, 8, 9, 12 and 13 bytes. -/
theorem test_witness_VerdictBits : ∀ n ∈ [(7 : Word), 8, 9, 12, 13],
    1 < (stored n).ft.length ∧ ((stored n).ftAt 1).getLsbD 0 = false ∧ ((stored n).rxAt 1).en = false ∧
    ¬(((stored n).rxAt 1).ctrl = 0 ∧ ((stored n).rxAt 1).ptr = 0 ∧ ((stored n).rxAt 1).len = 0) := by
  intro n _
  have hr : (stored n).rxAt 1 = ⟨0, 16, n⟩ := rfl
  have hf : (stored n).ftAt 1 = 0 := rfl
  rw [hr, hf]
  exact ⟨show 1 < idle.ft.length by decide, by decide, show (0 : Word).getLsbD 0 = false by decide,
    fun h => absurd (show (16 : Word) = 0 from h.2.1) (by decide)⟩

theorem test_witness_NotReadyIsNotClassified : (wrote.rxAt 0).en = true ∧
    ((wrote.rxAt 1).ctrl = 0 ∧ (wrote.rxAt 1).ptr = 0 ∧ (wrote.rxAt 1).len = 0) := by decide

/-- A step that keeps a verdict, and a RESET that clears it. -/
theorem test_witness_ClassifiedOnce :
    (∃ t, step { did (.getReply 0) wroteReplied with env := world [.write 0x00 0x00000005] } = .next t) ∧
    (∃ t, step { did (.getReply 0) wroteReplied with env := world [.write 0x00 0x00000001] } = .next t ∧
      t.ftAt 0 = 0) ∧
    ((did (.getReply 0) wroteReplied).ftAt 0).getLsbD 0 = true :=
  ⟨next_of_goesOn (by decide +kernel), ⟨_, next_after (by decide +kernel), by decide +kernel⟩,
    by decide +kernel⟩

/-- The shortest packets of both classes, V13 and V23, each with a byte changed. -/
theorem test_witness_DefaultCrcDetectsOneByte :
    Build.standard.crc = .standard ∧ OneByteChanged goodWrite (goodWrite.set 7 0x8F) ∧ goodWrite.length = 8 ∧
    checkCrc (crc8 Build.standard) goodWrite .writeReply = true ∧
    OneByteChanged [0x67, 0x01, 0x10, 0x00, 0xFE, 0x00, 0x05, 0x00, 0x00, 0x00, 0x00, 0xC5, 0x00]
      [0x66, 0x01, 0x10, 0x00, 0xFE, 0x00, 0x05, 0x00, 0x00, 0x00, 0x00, 0xC5, 0x00] ∧
    checkCrc (crc8 Build.standard) [0x67, 0x01, 0x10, 0x00, 0xFE, 0x00, 0x05, 0x00, 0x00, 0x00, 0x00, 0xC5, 0x00]
      .readReply = true :=
  ⟨rfl, ⟨7, 0x8F, by decide, by decide, rfl⟩, rfl, by decide +kernel, ⟨0, 0x66, by decide, by decide, rfl⟩,
    by decide +kernel⟩

/-- The table whose checksum is the exclusive or of the bytes: not the default, and admissible. -/
def xorTable : List Byte := (List.range 256).map (BitVec.ofNat 8)

def xorBuild : Build := { Build.standard with crc := .table xorTable }

theorem xorTable_getD : ∀ x : Byte, xorTable.getD x.toNat 0 = x := by decide +kernel

theorem crcLaws_xor : CrcLaws (crc8 xorBuild) :=
  CrcLaws.of_foldl (step := fun c b => xorTable.getD (c ^^^ b).toNat 0)
    (fun c => by rw [xorTable_getD, BitVec.xor_self]; rfl)
    (fun a b x h => by rwa [xorTable_getD, xorTable_getD, BitVec.xor_left_inj] at h)
    (fun a x y h => by rwa [xorTable_getD, xorTable_getD, BitVec.xor_right_inj] at h)

theorem test_witness_PacketsWithTheirCrcPass : CrcLaws (crc8 xorBuild) ∧ (goodWrite.take 7).length = 7 ∧
    (goodRead.take 11).length = 11 := ⟨crcLaws_xor, by decide, by decide⟩

/-- The three choices, and a table with the laws. -/
theorem test_witness_AcceptedChecksumsHaveTheLaws :
    Build.standard.ok = true ∧ xorBuild.ok = true ∧
    ({ Build.standard with crc := .platform 0 } : Build).ok = true ∧
    xorBuild.crc = .table xorTable ∧ xorTable.length = 256 ∧ CrcLaws (crc8 xorBuild) :=
  ⟨by decide, by decide +kernel, by decide, rfl, by decide +kernel, crcLaws_xor⟩

theorem missed_one : MissedCount wrote 1 :=
  ⟨by decide, fun i _ h => by
    have : i = 0 := Nat.lt_one_iff.1 h
    subst this; decide, fun h => absurd h (by decide)⟩
theorem missed_none (s : State) (h : s.regs.rxIndex = 0) : MissedCount s 0 :=
  ⟨Nat.zero_le _, fun i _ hi => absurd hi (by omega), fun hi => absurd hi (by omega)⟩

/-- A missed reply with a port bound, and nothing reserved with none. -/
theorem test_witness_ResetReportsAndClears :
    (0 < wrote.cfg.nCookies ∧ (wrote.ctxAt 0).valid = true ∧ wrote.pointersInRange = true ∧
      wrote.regs.rxIndex ≤ wrote.ft.length ∧ wrote.regs.port ≠ 0xFF) ∧ MissedCount wrote 1 ∧
    (State.reset.pointersInRange = true ∧ State.reset.regs.port = 0xFF) ∧ MissedCount State.reset 0 :=
  ⟨by decide, missed_one, by decide, missed_none _ rfl⟩

theorem test_witness_IsActiveAnswers : State.reset.regs.port = 0xFF ∧ idle.regs.port ≠ 0xFF := by decide

/-- The ports next to the list on both sides, and a port of the list without hardware CRC. -/
theorem test_witness_SetPortRefusals :
    (-2 : Int) ≠ -1 ∧ (-2 : Int) < 0 ∧ (State.reset.cfg.nPorts : Int) ≤ 2 ∧
    (0 : Int) ≤ 1 ∧ (1 : Int) < (({ Build.standard with hwCrc := [true, false] } : Build).nPorts : Int) ∧
    ({ Build.standard with hwCrc := [true, false] } : Build).hwCrc.getD (1 : Int).toNat false = false := by decide

/-- The first and the last port, from a bound and from an unbound state. -/
theorem test_witness_SetPortBinds :
    ((0 : Int) ≤ 0 ∧ (1 : Int) < (wrote.cfg.nPorts : Int) ∧ wrote.cfg.nPorts ≤ 127 ∧
      wrote.cfg.hwCrc.getD (0 : Int).toNat false = true ∧ wrote.cfg.hwCrc.getD (1 : Int).toNat false = true ∧
      wrote.pointersInRange = true ∧ wrote.regs.rxIndex ≤ wrote.ft.length ∧ wrote.regs.port ≠ 0xFF ∧
      State.reset.pointersInRange = true ∧ State.reset.regs.port = 0xFF) ∧
    MissedCount wrote 1 ∧ MissedCount State.reset 0 := ⟨by decide, missed_one, missed_none _ rfl⟩

theorem test_witness_DeactivationUnbinds :
    (wrote.pointersInRange = true ∧ wrote.regs.rxIndex ≤ wrote.ft.length) ∧ MissedCount wrote 1 ∧
    ∃ t, exec (.setPort (-1)) wrote = .next t := ⟨by decide, missed_one, _, rfl⟩

theorem test_witness_OpenTakesTheLowest :
    idle.ctx.length = idle.cfg.nCookies ∧ 1 < idle.cfg.nCookies ∧ (idle.ctxAt 1).valid = false ∧
    ∀ j, j < 1 → (idle.ctxAt j).valid = true := by decide

theorem test_witness_OpenWithoutAFreeContext :
    ({ idle with ctx := List.replicate 4 { Ctx.zero with valid := true } } : State).ctx.length = idle.cfg.nCookies ∧
    ∀ j, j < idle.cfg.nCookies →
      (State.ctxAt { idle with ctx := List.replicate 4 { Ctx.zero with valid := true } } j).valid = true := by decide

/-- For REOPEN and for CLOSE, SET_ADDRESS, GET_ADDRESS; REOPEN with a port and without. -/
theorem test_witness_ReOpenRetargets :
    0 < idle.cfg.nCookies ∧ (idle.ctxAt 0).valid = true ∧ idle.regs.port ≠ 0xFF ∧
    ({ idle with regs := { idle.regs with port := 0xFF } } : State).regs.port = 0xFF := by decide
theorem test_witness_CloseAndAddressCommands : 0 < idle.cfg.nCookies ∧ (idle.ctxAt 0).valid = true := by decide

/-- A poll that goes on, or times out, and one that ends with the reply. -/
theorem test_witness_PollEndsOrWaits :
    (waiting.cfg.ok = true ∧ waiting.seq = .blocking 0 0 0 ∧ waiting.env.agenda = [] ∧
      waiting.pointersInRange = true ∧ (did (.getReply 0) waiting).res.result = 0x010A) ∧
    ({ waiting with env := world [.poll] } : State).env.agenda = .poll :: [] ∧
    ({ waiting with env := world [.write 0x00 2] } : State).env.agenda = .write 0x00 2 :: [] ∧
    ({ waiting with env := world [.read 0x20] } : State).env.agenda = .read 0x20 :: [] ∧
    (dma (.dmaRx 0 goodWrite false) (dma (.dmaTx 0) waiting)).seq = .blocking 0 0 0 ∧
    (did (.getReply 0) (dma (.dmaRx 0 goodWrite false) (dma (.dmaTx 0) waiting))).res.result = 0x0000 := by
  decide +kernel

theorem test_witness_DmaTransmits :
    ({ wrote with env := world [.dmaTx 0] } : State).cfg.ok = true ∧
    ({ wrote with env := world [.dmaTx 0] } : State).env.agenda = .dmaTx 0 :: [] ∧ wrote.regs.port ≠ 0xFF ∧
    (wrote.txAt 0).ctrl.getLsbD 0 = true ∧ wrote.pointersInRange = true := by decide

theorem test_witness_DmaTransmissionFails :
    ({ wrote with env := world [.dmaTxErr 0] } : State).env.agenda = .dmaTxErr 0 :: [] ∧ wrote.cfg.ok = true ∧
    wrote.regs.port ≠ 0xFF ∧ (wrote.txAt 0).ctrl.getLsbD 0 = true := by decide

theorem test_witness_DmaReceives :
    ({ wrote with env := world [.dmaRx 0 goodRead true] } : State).env.agenda = .dmaRx 0 goodRead true :: [] ∧
    wrote.cfg.ok = true ∧ wrote.regs.port ≠ 0xFF ∧ (wrote.rxAt 0).ctrl.getLsbD 0 = true ∧
    wrote.pointersInRange = true ∧ wrote.arena.wf = true ∧ 8 = min goodRead.length (wrote.rxAt 0).len.toNat := by
  decide

/-- All three steps of the agent. -/
theorem test_witness_DmaAgentNever : wrote.arena.wf = true ∧
    (∃ t, step { wrote with env := world [.dmaTx 0] } = .next t) ∧
    (∃ t, step { wrote with env := world [.dmaTxErr 0] } = .next t) ∧
    (∃ t, step { wrote with env := world [.dmaRx 0 goodWrite false] } = .next t ∧
      t.arena.read 0 ≠ wrote.arena.read 0) :=
  ⟨by decide, ⟨_, rfl⟩, ⟨_, rfl⟩, ⟨_, rfl, by decide⟩⟩

/-- A descriptor that is not enabled, and no port bound. -/
theorem test_witness_DmaNeedsAnEnabledDescriptor :
    (bound 1 operands [.dmaTx 0]).env.agenda = .dmaTx 0 :: [] ∧ (idle.txAt 0).en = false ∧
    (bound 1 operands [.dmaRx 3 [] false]).env.agenda = .dmaRx 3 [] false :: [] ∧ (idle.rxAt 3).en = false ∧
    State.reset.regs.port = 0xFF ∧ Build.standard.ok = true := by decide

theorem test_witness_EventRegisters :
    (bound 1 operands [.read 0x30]).env.agenda = .read 0x30 :: [] ∧ idle.events = [] ∧
    (idle.emit .portSwitch (-1)).events = ⟨.portSwitch, -1⟩ :: [] ∧
    (EventKind.portSwitch, (22 : Byte)) ∈ [(EventKind.portSwitch, (22 : Byte)), (.noRxDescriptors, 23)] ∧
    (bound 1 operands [.read 0x34]).env.agenda = .read 0x34 :: [] ∧ idle.seq = .idle ∧ idle.cfg.ok = true := by
  decide

/-- The last listed offset and the one after it. -/
theorem test_witness_PortReads :
    (bound 1 operands [.read 0x58]).env.agenda = .read 0x58 :: [] ∧
    (bound 1 operands [.read 0x5C]).env.agenda = .read 0x5C :: [] ∧
    (0x5C : Word) ∉ ([0x00, 0x04, 0x08, 0x0C, 0x10, 0x14, 0x18, 0x20, 0x24, 0x28, 0x2C, 0x30, 0x34, 0x40, 0x44, 0x48,
      0x4C, 0x50, 0x54, 0x58] : List Word) ∧ idle.seq = .idle ∧ idle.cfg.ok = true := by decide

theorem test_witness_CmdReadIsFree :
    (bound 1 operands [.read 0x00, .read 0x00]).env.agenda = .read 0x00 :: .read 0x00 :: [] ∧ idle.seq = .idle ∧ idle.cfg.ok = true := by decide

/-- The last operand register, the hole after it, a read-only register. -/
theorem test_witness_PortWrites :
    (bound 1 operands [.write 0x18 7]).env.agenda = .write 0x18 7 :: [] ∧
    (0x1C : Word) ∉ ([0x00, 0x04, 0x08, 0x0C, 0x10, 0x14, 0x18] : List Word) ∧
    (0x20 : Word) ∉ ([0x00, 0x04, 0x08, 0x0C, 0x10, 0x14, 0x18] : List Word) ∧ idle.seq = .idle ∧
    idle.cfg.ok = true := by decide

theorem test_witness_HostMemoryChanges :
    (bound 1 operands [.hostMem 0xFFFFFFFF 1]).env.agenda = .hostMem 0xFFFFFFFF 1 :: [] ∧ idle.cfg.ok = true ∧
    idle.hostMem.wf = true := by decide

/-- The four steps of a write: send, transmit, receive, collect. -/
def writeTrip : List Input :=
  [.write 0x00 (encode (.sendCommand 0 0x70)), .dmaTx 0,
   .dmaRx 0 (writeReply crc8Standard 0x67 0xFE 0x70 0x04 1) false, .write 0x00 (encode (.getReply 0))]

theorem test_witness_WriteRoundTrip :
    RunInv (bound 1 operands writeTrip) ∧
    (bound 1 operands writeTrip).seq = .idle ∧ SendAccepts 0 0x70 operands.len 0 (bound 1 operands writeTrip) ∧
    (0x70 : Byte) = 0x70 ||| ((bound 1 operands writeTrip).ctxAt 0).mask ∧ (0x70 : Byte).getLsbD 5 = true ∧
    (bound 1 operands writeTrip).env.agenda = writeTrip :=
  ⟨runInv_bound .., rfl,
    ⟨by decide, by decide, by decide, by decide, by decide, .inl ⟨by decide, rfl⟩, by decide⟩,
    by decide, by decide, rfl⟩

/-- The same for a read of 51 bytes, the longest there is. -/
def readTrip : List Input :=
  [.write 0x00 (encode (.sendCommand 0 0x50)), .dmaTx 0,
   .dmaRx 0 (readReply crc8Standard 0x67 0xFE 0x50 0x00 2 (List.replicate 51 0xA5)) false,
   .write 0x00 (encode (.getReply 0))]

theorem test_witness_ReadRoundTrip :
    RunInv (bound 2 ⟨0, 51, 0, 0, 0, 0⟩ readTrip) ∧
    SendAccepts 0 0x50 51 0 (bound 2 ⟨0, 51, 0, 0, 0, 0⟩ readTrip) ∧
    (0x50 : Byte) = 0x50 ||| ((bound 2 ⟨0, 51, 0, 0, 0, 0⟩ readTrip).ctxAt 0).mask ∧
    (0x50 : Byte).getLsbD 5 = false ∧
    (List.replicate 51 (0xA5 : Byte)).length = (51 : Word).toNat :=
  ⟨runInv_bound ..,
    ⟨by decide, by decide, by decide, by decide, by decide, .inl ⟨by decide, rfl⟩, by decide⟩,
    by decide, by decide, rfl⟩

end Sys2Proof.Tests
end

/-! Channel control (spec/40_channel_control.md): RESET, IS_ACTIVE, SET_PORT and SET_PORT_ADDR. The lemmas come first,
then the statements they settle. -/

namespace Sys2Proof.Machine

open Sys2Proof

section Lemmas

variable {crc : List Byte → Byte}

/-! ## RESET and RESET_VIA_COOKIE (rules R150, R319) -/

/-- RESET, and RESET_VIA_COOKIE of an open cookie, are one channel reset. -/
theorem exec_eq_channelReset {s : State} {i : Instr}
    (hi : i = .reset ∨ ∃ c, i = .resetViaCookie c ∧ c < s.cfg.nCookies ∧ (s.ctxAt c).valid = true) :
    exec i s = channelReset (crc8 s.cfg) s := by
  rcases hi with rfl | ⟨c, rfl, hc, hv⟩
  · rfl
  · have hopen : s.cookieValid c = true := (s.cookieValid_iff c).2 ⟨hc, hv⟩
    change cookieReset (crc8 s.cfg) c s = _
    rw [cookieReset, hopen]
    rfl

/-- The result of a channel reset (rule R155). -/
def resetCode (s : State) : Code := if linkDeclaredDown s then .linkDown else .ok

theorem resetCode_toHalf_cases (s : State) :
    (resetCode s).toHalf = 0x010D ∨ (resetCode s).toHalf = 0x0000 := by
  unfold resetCode
  split
  · exact .inl rfl
  · exact .inr rfl

/-- The result is `LINK_DOWN` exactly when the link is declared down. -/
theorem resetCode_toHalf_eq_linkDown_iff (s : State) :
    (resetCode s).toHalf = 0x010D ↔ 1 < s.regs.rxIndex ∧ ∀ j, j < s.regs.rxIndex → (s.rxAt j).en = true := by
  rw [← linkDeclaredDown_iff, resetCode]
  cases linkDeclaredDown s <;> decide

/-! ## SET_PORT and SET_PORT_ADDR (rules R160 to R168) -/

/-- The two port commands differ in the addresses they take only. -/
theorem exec_eq_setPortBody {port : Int} {i : Instr} (hi : i = .setPort port ∨ i = .setPortAddr port) (s : State) :
    ∃ dest src, exec i s = setPortBody (crc8 s.cfg) port dest src s := by
  rcases hi with rfl | rfl
  · exact ⟨s.regs.destAddr, s.regs.srcAddr, rfl⟩
  · exact ⟨s.args.dest, s.args.src, rfl⟩

/-- A port outside the device list is refused (rule R161). -/
theorem portRefusal_of_outOfRange {cfg : Build} {port : Int} (hne : port ≠ -1)
    (h : port < 0 ∨ (cfg.nPorts : Int) ≤ port) : portRefusal cfg port = some .commandPortOutOfRange := by
  rw [portRefusal, if_neg hne, if_pos h]

/-- A port of the device list without hardware CRC is refused (rule R162). -/
theorem portRefusal_of_noHwCrc {cfg : Build} {port : Int} (h0 : 0 ≤ port) (hlt : port < (cfg.nPorts : Int))
    (hcrc : cfg.hwCrc.getD port.toNat false = false) : portRefusal cfg port = some .noHwCrc := by
  have hat : hwCrcAt cfg port = false := hcrc
  rw [portRefusal, if_neg (by omega), if_neg (by omega), hat]
  rfl

/-- A refused port ends the command with the refusal's code and changes nothing else. -/
theorem setPortBody_of_refused {port : Int} {s : State} {code : Code} (h : portRefusal s.cfg port = some code)
    (dest src : Byte) : setPortBody crc port dest src s = .next (ended s code.toHalf) := by
  rw [setPortBody, h]
  rfl

/-- Port -1 is not refused: the command deactivates (rule R163). -/
theorem setPortBody_deactivates {s : State} (hp : s.pointersInRange = true) (dest src : Byte) :
    setPortBody crc (-1) dest src s = complete (deactivate crc s) := by
  have hr : portRefusal s.cfg (-1) = none := if_pos rfl
  rw [setPortBody, hr]
  exact guardPointers_true hp _

/-- The state the reset of the old binding starts from: the switch event is emitted and the mirror, if present,
shows the requested port (rules R165, R166). -/
def switching (port : Int) (s : State) : State :=
  { s with
    events := s.events ++ [⟨.portSwitch, port⟩]
    regs := { s.regs with hkPort := if s.cfg.hasHkMirror then BitVec.ofInt 8 port else s.regs.hkPort } }

theorem mirrorPort_emit_portSwitch (port : Int) (s : State) :
    mirrorPort port (s.emit .portSwitch port) = switching port s := by
  unfold mirrorPort switching
  cases h : s.cfg.hasHkMirror <;> simp only [State.emit_cfg, h] <;> rfl

/-- The event and the mirror are nothing a reset reports on. -/
theorem resetEvents_switching (port : Int) (s : State) (link : BitVec 3) (status : Word) (m : Nat) :
    resetEvents crc (switching port s) link status m = resetEvents crc s link status m := by
  have hfail : newlyFailed crc (switching port s) = newlyFailed crc s := newlyFailed_congr rfl rfl rfl rfl rfl rfl
  rw [resetEvents, hfail]
  rfl

/-- What an accepted request leaves when the old binding is reset, before `PORT` is written: the switch event, the
mirror, the events of the reset from one reading each of the link state and the status if a port was bound, and
everything a reset clears (rules R165 to R167). -/
theorem leavePort_events {s : State} {m : Nat} (port : Int) (hf : s.regs.rxIndex ≤ s.ft.length)
    (hm : MissedCount s m) :
    ∃ link status e, leavePort crc port s = { cleared (switching port s) with
        events := s.events ++ [⟨.portSwitch, port⟩] ++ resetEvents crc s link status m, env := e } ∧
      (s.regs.port = 0xFF → e = s.env) ∧
      (s.regs.port ≠ 0xFF → InputsRead 1 1 0 s.env e ∧
        (∀ v ∈ s.env.linkDraws.head?, link = v) ∧ (∀ v ∈ s.env.statusDraws.head?, status = v)) := by
  obtain ⟨link, status, e, hreset, hunbound, hbound⟩ := resetBody_events (crc := crc) (s := switching port s) hf hm
  refine ⟨link, status, e, ?_, hunbound, hbound⟩
  rw [leavePort, mirrorPort_emit_portSwitch, hreset, resetEvents_switching]
  rfl

/-- With no port bound no DMA step is enabled (spec/47_dma_agent.md rule R331). -/
theorem no_dma_enabled_of_unbound {t : State} (h : t.regs.port = 0xFF) (k : Nat) :
    txEnabled t k = false ∧ rxEnabled t k = false := by
  have hb : t.bound = false := by rw [State.bound, h]; rfl
  rw [txEnabled, rxEnabled, hb]
  exact ⟨rfl, rfl⟩

end Lemmas

/-! ## The statements -/

/-- Settles O39: the command is the channel reset, whose events and clearing `resetBody_events` gives, and whose result
is `LINK_DOWN` exactly when the link is declared down. -/
theorem resetReportsAndClears : Obligations.ResetReportsAndClears := by
  intro s i m hi hp hf hm
  obtain ⟨link, status, e, hreset, hunbound, hbound⟩ := resetBody_events (crc := crc8 s.cfg) hf hm
  refine ⟨link, status, e, (resetCode s).toHalf, hunbound, hbound, ?_, resetCode_toHalf_cases s,
    resetCode_toHalf_eq_linkDown_iff s⟩
  rw [exec_eq_channelReset hi, channelReset, guardPointers_true hp, hreset]
  rfl

/-- Settles O43: the old binding is left, then `PORT` is -1, so that no DMA step is enabled in the state written out. -/
theorem deactivationUnbinds : Obligations.DeactivationUnbinds := by
  intro s i m hi hp hf hm
  obtain ⟨dest, src, hexec⟩ := exec_eq_setPortBody hi s
  obtain ⟨link, status, e, hleave, hunbound, hbound⟩ := leavePort_events (crc := crc8 s.cfg) (-1) hf hm
  rw [hexec, setPortBody_deactivates hp, deactivate, hleave]
  refine ⟨link, status, e, hunbound, hbound, rfl, fun t k ht => no_dma_enabled_of_unbound ?_ k⟩
  rw [complete_next.1 ht]
  rfl

/-- Settles O40, by the two cases of the active check: no port, and one reading of the link state. -/
theorem isActiveAnswers : Obligations.IsActiveAnswers := by
  intro s
  have hexec : exec .isActive s = complete (activeBody s) := rfl
  rcases activeBody_cases s with ⟨hport, hbody⟩ | ⟨hport, link, e, hbody, hhead, hread⟩
  · exact ⟨fun _ => by rw [hexec, hbody]; rfl, fun hne => absurd hport hne⟩
  · refine ⟨fun heq => absurd heq hport, fun _ => ⟨link, e, hread, hhead, ?_⟩⟩
    rw [hexec, hbody]
    by_cases hrun : link = 5
    · rw [if_pos hrun, if_pos hrun]; rfl
    · rw [if_neg hrun, if_neg hrun]; rfl

/-- Settles O41: each clause is one refusal of `portRefusal`, and a refused request changes `RESULT` only. -/
theorem setPortRefusals : Obligations.SetPortRefusals := by
  intro s port i hi hne
  obtain ⟨dest, src, hexec⟩ := exec_eq_setPortBody hi s
  rw [hexec]
  exact ⟨fun hout => setPortBody_of_refused (portRefusal_of_outOfRange hne hout) dest src,
    fun h0 hlt hcrc => setPortBody_of_refused (portRefusal_of_noHwCrc h0 hlt hcrc) dest src⟩

end Sys2Proof.Machine

/-! SEND_COMMAND (spec/41_send.md): the check that refuses a send, one lemma for each, then the statements they
settle. -/

namespace Sys2Proof.Machine

open Sys2Proof

section Lemmas

/-! ## The command and its body -/

/-- SEND_COMMAND ends with the code its body answers. -/
theorem exec_sendCommand_of_sendBody {c : Nat} {instruction : Byte} {s u : State} {code : Code}
    (h : sendBody c instruction s.args.ptr s.args.len s = (u, code)) :
    exec (.sendCommand c instruction) s = .next (ended u code.toHalf) := by
  have hexec : exec (.sendCommand c instruction) s = complete (sendBody c instruction s.args.ptr s.args.len s) := rfl
  rw [hexec, h]
  rfl

/-- An accepted SEND_COMMAND answers the programmed state with `OK`. -/
theorem exec_sendCommand_of_accepts {c : Nat} {instruction : Byte} {t : Nat} {s : State}
    (h : SendAccepts c instruction s.args.len t s) :
    exec (.sendCommand c instruction) s =
      .next (ended (programmed s c (instruction ||| (s.ctxAt c).mask) s.args.ptr s.args.len t) 0x0000) := by
  rw [exec_sendCommand_of_sendBody (sendBody_of_accepts h), commitSend_eq_programmed]
  rfl

/-! ## The first check that fails (rules R181 to R189) -/

/-- No TX slot is left exactly when the index is past the ring and the ring does not wrap (rule R188). -/
theorem txSlot_eq_none {s : State} : txSlot s = none ↔ s.cfg.maxTx ≤ s.regs.txIndex ∧ s.cfg.maxTx ≠ 64 := by
  unfold txSlot txWrapSize
  split
  · simp; omega
  · split
    · simp; omega
    · simp; omega

/-- The two bounds on a length, one for each direction (rule R184). -/
theorem lengthRefused_iff {cfg : Build} {ins : Byte} {datalen : Word} :
    lengthRefused cfg (isWrite ins) datalen = true ↔
      (ins.getLsbD 5 = true ∧ 2 ^ 24 ≤ datalen.toNat) ∨
      (ins.getLsbD 5 = false ∧ cfg.maxPacketLen < datalen.toNat + 1 + 12) := by
  unfold lengthRefused isWrite rdReplyHdrLen
  cases ins.getLsbD 5
  · simp
  · simp

variable {c : Nat} {instruction : Byte} {ptr datalen : Word} {s : State}

/-- No open cookie (rule R181). -/
theorem sendBody_of_not_cookieValid (hc : ¬(c < s.cfg.nCookies ∧ (s.ctxAt c).valid = true)) :
    sendBody c instruction ptr datalen s = (s, .commandNoChannel) := by
  rw [← s.cookieValid_iff] at hc
  simp [sendBody, hc]

section OpenCookie
variable (hc : s.cookieValid c = true)
include hc

/-- No port bound (rule R183). -/
theorem sendBody_of_unbound (hp : s.regs.port = 0xFF) :
    sendBody c instruction ptr datalen s = (s, .commandChannelDeactivated) := by
  have hb : ¬s.bound = true := fun h => (s.bound_iff).1 h hp
  simp [sendBody, hc, hb]

section Bound
variable (hb : s.bound = true)
include hb

/-- Too long for its direction (rule R184). -/
theorem sendBody_of_lengthRefused
    (hl : lengthRefused s.cfg (isWrite (instruction ||| (s.ctxAt c).mask)) datalen = true) :
    sendBody c instruction ptr datalen s = (s, .tooMuchData) := by
  simp [sendBody, effectiveInstruction, hc, hb, hl]

section LengthPasses
variable (hl : lengthRefused s.cfg (isWrite (instruction ||| (s.ctxAt c).mask)) datalen = false)
include hl

/-- Too little of the arena is free (rule R185). -/
theorem sendBody_of_arenaFull (ha : s.cfg.arenaSize - s.regs.arenaPtr < s.cfg.arenaHeadroom) :
    sendBody c instruction ptr datalen s = (s, .commandBufferFull) := by
  have hfull : arenaFull s = true := decide_eq_true ha
  simp [sendBody, effectiveInstruction, hc, hb, hl, hfull]

section Headroom
variable (ha : arenaFull s = false)
include ha

/-- No RX slot is left: the one refusal that emits an event (rules R186, R187). -/
theorem sendBody_of_rxFull (hr : s.cfg.maxRx ≤ s.regs.rxIndex) :
    sendBody c instruction ptr datalen s =
      (s.emit .noRxDescriptors s.regs.rxIndex, .commandNoDescriptorsAvailable) := by
  simp [sendBody, effectiveInstruction, hc, hb, hl, ha, hr]

/-- No TX slot is left and the ring does not wrap (rule R188). -/
theorem sendBody_of_txFull (hr : ¬s.cfg.maxRx ≤ s.regs.rxIndex) (ht : txSlot s = none) :
    sendBody c instruction ptr datalen s = (s, .commandNoDescriptorsAvailable) := by
  simp [sendBody, effectiveInstruction, hc, hb, hl, ha, hr, ht]

/-- The TX slot is still enabled (rule R189). -/
theorem sendBody_of_txBusy {t : Nat} (hr : ¬s.cfg.maxRx ≤ s.regs.rxIndex) (ht : txSlot s = some t)
    (hen : (s.txAt t).en = true) :
    sendBody c instruction ptr datalen s = (s, .commandNoDescriptorsAvailable) := by
  simp [sendBody, effectiveInstruction, hc, hb, hl, ha, hr, ht, hen]

end Headroom
end LengthPasses
end Bound
end OpenCookie
end Lemmas

/-! ## The statements -/

/-- Settles O22: an accepted send commits, and the commit is the programmed state. -/
theorem sendCommandPrograms : Obligations.SendCommandPrograms :=
  fun _ _ _ _ haccepts => exec_sendCommand_of_accepts haccepts

/-- Settles O21: down the list of checks, the first that fails is the refusal its lemma gives; when none fails the
send is accepted. -/
theorem sendCommandDecides : Obligations.SendCommandDecides := by
  intro s c instruction ins t hins ht
  subst hins
  by_cases hcookie : c < s.cfg.nCookies ∧ (s.ctxAt c).valid = true
  case neg =>
    rw [if_pos hcookie]
    exact exec_sendCommand_of_sendBody (sendBody_of_not_cookieValid hcookie)
  rw [if_neg (not_not.2 hcookie)]
  have hc := (s.cookieValid_iff c).2 hcookie
  split_ifs with hport hwrite hread harena hrx htx hen
  · exact exec_sendCommand_of_sendBody (sendBody_of_unbound hc hport)
  all_goals have hb := (s.bound_iff).2 hport
  · exact exec_sendCommand_of_sendBody (sendBody_of_lengthRefused hc hb (lengthRefused_iff.2 (.inl hwrite)))
  · exact exec_sendCommand_of_sendBody (sendBody_of_lengthRefused hc hb (lengthRefused_iff.2 (.inr hread)))
  all_goals have hl := Bool.eq_false_iff.2 fun h => (lengthRefused_iff.1 h).elim hwrite hread
  · exact exec_sendCommand_of_sendBody (sendBody_of_arenaFull hc hb hl harena)
  all_goals have ha := arenaFull_eq_false.2 (not_lt.1 harena)
  · exact exec_sendCommand_of_sendBody (sendBody_of_rxFull hc hb hl ha hrx)
  · exact exec_sendCommand_of_sendBody (sendBody_of_txFull hc hb hl ha hrx (txSlot_eq_none.2 htx))
  all_goals
    have hslot : (s.regs.txIndex < s.cfg.maxTx ∧ t = s.regs.txIndex) ∨
        (s.cfg.maxTx ≤ s.regs.txIndex ∧ s.cfg.maxTx = 64 ∧ t = 0) := by
      subst ht
      split <;> omega
  · exact exec_sendCommand_of_sendBody (sendBody_of_txBusy hc hb hl ha hrx (txSlot_eq_some.2 hslot) hen)
  · exact exec_sendCommand_of_accepts ⟨hc, hport, lengthRefused_eq_false.1 hl, not_lt.1 harena, not_le.1 hrx,
      hslot, Bool.eq_false_iff.2 hen⟩

end Sys2Proof.Machine

/-! GET_REPLY (spec/42_reply.md) on an open cookie: its three commands are one, the answer of `get_reply_body` for each
outcome of the transmit check and the scan, then the statements they settle. -/

namespace Sys2Proof.Machine

open Sys2Proof

section Lemmas

/-! ## Pointers in range (rule R216) -/

/-- The scan of an open cookie starts inside the ring. -/
theorem rxdescIndex_lt_of_cookieValid {s : State} {c : Nat} (hp : s.pointersInRange = true)
    (hc : s.cookieValid c = true) : (s.ctxAt c).rxdescIndex < s.cfg.maxRx := by
  have hmem : s.ctxAt c ∈ s.ctx := by
    rw [State.ctxAt, List.getD_eq_getElem _ _ (State.lt_length_of_cookieValid hc)]
    exact List.getElem_mem _
  simp only [State.pointersInRange, Bool.and_eq_true, List.all_eq_true, decide_eq_true_eq] at hp
  obtain ⟨-, hctx⟩ := hp
  exact (hctx _ hmem).2

/-! ## The failure table after a full scan (rule R219) -/

/-- The list is visited whole when no member has the property. -/
theorem upToFirst_of_find?_eq_none {p : Nat → Bool} : ∀ {l : List Nat}, l.find? p = none → upToFirst p l = l
  | [], _ => rfl
  | i :: rest, h => by
    rw [List.find?_cons] at h
    cases hi : p i with
    | true => simp [hi] at h
    | false =>
      rw [hi] at h
      rw [upToFirst, hi, upToFirst_of_find?_eq_none h]
      rfl

variable {crc : List Byte → Byte} {c : Nat} {s : State}

/-- Without a match every slot of the ring is visited. -/
theorem tableAfterScan_of_no_match (hr : (s.ctxAt c).rxdescIndex < s.cfg.maxRx) (hf : s.ft.length = s.cfg.maxRx)
    (hm : firstMatch crc s c = none) : tableAfterScan crc s c = (List.range s.cfg.maxRx).map (entryAfter crc s) := by
  have hall : visited crc s c = scanOrder s c := upToFirst_of_find?_eq_none hm
  rw [tableAfterScan, hall, hf]
  refine List.map_congr_left fun j hj => ?_
  rw [if_pos ((mem_scanOrder hr).2 (List.mem_range.1 hj))]

/-! ## The answers of `get_reply_body` (rule R210) -/

theorem ofStatus_toHalf (status : Byte) : (Code.ofStatus status).toHalf = statusCode status := by
  unfold Code.ofStatus statusCode
  split <;> rfl

/-- The remembered slot is still enabled (rule R214). -/
theorem checkTxDesc_of_enabled (ho : TxSlotOurs s c) (he : (s.txAt (s.ctxAt c).txdesc).en = true) :
    checkTxDesc c s = (s, some .replyNotYetSent) := by
  simp [checkTxDesc, txSlotIsOurs_iff.2 ho, he]

/-- The remembered slot completed with a link error (rule R215). -/
theorem checkTxDesc_of_linkError (ho : TxSlotOurs s c) (he : (s.txAt (s.ctxAt c).txdesc).en = false)
    (hl : (s.txAt (s.ctxAt c).txdesc).le = true) :
    checkTxDesc c s = (s.emit .txLinkError ((s.ctxAt c).txdesc : Int), some .replyNotSent) := by
  simp [checkTxDesc, txSlotIsOurs_iff.2 ho, he, hl]

section OpenCookie
variable (hc : s.cookieValid c = true)
include hc

/-- What the transmit check answers ends the command before the scan (rules R214, R215). -/
theorem getReplyBody_of_checkTxDesc {u : State} {code : Code} (h : checkTxDesc c s = (u, some code)) :
    getReplyBody crc c s = (u, code) := by
  simp [getReplyBody, hc, h]

section Scan
variable (hp : s.pointersInRange = true) (hf : s.ft.length = s.cfg.maxRx) (ht : TxCheckPasses s c)
include hp hf ht

/-- The scan finds nothing (rule R219). -/
theorem getReplyBody_of_no_match (hm : firstMatch crc s c = none) :
    getReplyBody crc c s = ({ s with ft := (List.range s.cfg.maxRx).map (entryAfter crc s) }, .replyNoReply) := by
  have hr := rxdescIndex_lt_of_cookieValid hp hc
  simp only [getReplyBody, hc, State.sync_eq, checkTxDesc_of_passes ht, findReply_eq hr hf, hm,
    tableAfterScan_of_no_match hr hf hm]
  rfl

/-- The scan finds slot `k`, whose status byte is the answer (rules R222, R223). -/
theorem getReplyBody_of_match {k : Nat} (hm : firstMatch crc s c = some k) :
    getReplyBody crc c s =
      (deliver k { s with ft := tableAfterScan crc s c }, Code.ofStatus (pktByte (s.pkt k) 3)) := by
  have hr := rxdescIndex_lt_of_cookieValid hp hc
  simp only [getReplyBody, hc, State.sync_eq, checkTxDesc_of_passes ht, findReply_eq hr hf, hm]
  rfl

end Scan
end OpenCookie

/-- The payload registers: a packet of 13 bytes or more sets them, a shorter one leaves them (rule R222). -/
theorem deliver_eq_if (k : Nat) (s : State) :
    deliver k s = { s with
      res := if 13 ≤ (s.rxAt k).len.toNat
        then { s.res with replyPtr := (s.rxAt k).ptr + 12, replyLen := (s.rxAt k).len - 13 } else s.res } := by
  unfold deliver rdReplyMinLen rdReplyHdrLen
  split <;> rfl

/-! ## The three get commands (rules R210, R313, R315) -/

/-- A facade's get command on an open cookie of its direction is GET_REPLY. -/
theorem getDirected_of_direction {write : Bool} (hc : s.cookieValid c = true)
    (hd : (s.ctxAt c).hdr.instruction.getLsbD 5 = write) : getDirected crc write c s = getReply crc c s := by
  have hw : isWrite (s.ctxAt c).instr = write := hd
  simp [getDirected, hc, hw]

/-- GET_REPLY, and the facade's two on a cookie of their direction, end with the code `get_reply_body` answers. -/
theorem exec_get_of_getReplyBody {i : Instr} {u : State} {code : Code}
    (hi : i = .getReply c ∨ (i = .getWriteReply c ∧ (s.ctxAt c).hdr.instruction.getLsbD 5 = true) ∨
      (i = .getReadReply c ∧ (s.ctxAt c).hdr.instruction.getLsbD 5 = false))
    (hc : s.cookieValid c = true) (hp : s.pointersInRange = true)
    (h : getReplyBody (crc8 s.cfg) c s = (u, code)) : exec i s = .next (ended u code.toHalf) := by
  have hget : exec i s = getReply (crc8 s.cfg) c s := by
    rcases hi with rfl | ⟨rfl, hwrite⟩ | ⟨rfl, hread⟩
    · rfl
    · exact getDirected_of_direction hc hwrite
    · exact getDirected_of_direction hc hread
  rw [hget, getReply, hc, guardPointers_true hp, h]
  rfl

end Lemmas

/-! ## The statements -/

/-- Settles O28: the scan answers the first match, whose packet gives the payload registers and the status. -/
theorem getReplyDelivers : Obligations.GetReplyDelivers := by
  intro s c k i hi hlt hvalid hp hf ht hm
  have hc := (s.cookieValid_iff c).2 ⟨hlt, hvalid⟩
  rw [exec_get_of_getReplyBody hi hc hp (getReplyBody_of_match hc hp hf ht hm), deliver_eq_if, ofStatus_toHalf]
  rfl

/-- Settles O29: without a match the scan visits the whole ring. -/
theorem getReplyFindsNothing : Obligations.GetReplyFindsNothing := by
  intro s c i hi hlt hvalid hp hf ht hm
  have hc := (s.cookieValid_iff c).2 ⟨hlt, hvalid⟩
  exact exec_get_of_getReplyBody hi hc hp (getReplyBody_of_no_match hc hp hf ht hm)

/-- Settles O30: the two answers of the transmit check that end the command before the scan. -/
theorem getReplyBeforeTransmission : Obligations.GetReplyBeforeTransmission := by
  intro s c i hi hlt hvalid hp ho
  have hc := (s.cookieValid_iff c).2 ⟨hlt, hvalid⟩
  exact ⟨fun he => exec_get_of_getReplyBody hi hc hp (getReplyBody_of_checkTxDesc hc (checkTxDesc_of_enabled ho he)),
    fun he hl => exec_get_of_getReplyBody hi hc hp
      (getReplyBody_of_checkTxDesc hc (checkTxDesc_of_linkError ho he hl))⟩

end Sys2Proof.Machine

/-! The classifier (spec/43_validator.md): the verdict on a ready slot, bit by bit, and what becomes of a verdict over
a step. The lemmas come first, then the statements they settle. -/

namespace Sys2Proof.Machine

open Sys2Proof

section Lemmas

variable {crc : List Byte → Byte} {s : State}

/-! ## Ready slots (rules R38, R240) -/

/-- A slot is ready exactly when it is completed and not all-zero. -/
theorem RxDesc.ready_iff {d : RxDesc} : d.ready = true ↔ d.en = false ∧ ¬(d.ctrl = 0 ∧ d.ptr = 0 ∧ d.len = 0) := by
  simp [RxDesc.ready, RxDesc.allZero, imp_iff_not_or, or_assoc]

/-- The entry of a ready slot that is not classified is the verdict on its packet (rule R256). -/
theorem classify_of_ready {i : Nat} (hf : (s.ftAt i).getLsbD 0 = false) (hr : (s.rxAt i).ready = true) :
    classify crc i s = s.setFt i (verdict crc s (s.rxAt i) (s.pkt i)) := by
  rw [classify, entryClassified, hf, hr]
  rfl

theorem classify_ftAt_of_ready {i : Nat} (hi : i < s.ft.length) (hf : (s.ftAt i).getLsbD 0 = false)
    (hr : (s.rxAt i).ready = true) : (classify crc i s).ftAt i = verdict crc s (s.rxAt i) (s.pkt i) := by
  rw [classify_of_ready hf hr, State.ftAt_setFt, if_pos ⟨rfl, hi⟩]

/-! ## Length classes (rule R245) -/

theorem lengthClass_eq (n : Nat) :
    lengthClass n = if n = 8 then .writeReply else if 13 ≤ n then .readReply else .bad := rfl

theorem lengthClass_of_bad {n : Nat} (h8 : n ≠ 8) (h13 : n < 13) : lengthClass n = .bad := by
  rw [lengthClass_eq, if_neg h8, if_neg (Nat.not_le.2 h13)]

theorem lengthClass_of_long {n : Nat} (h : 13 ≤ n) : lengthClass n = .readReply := by
  rw [lengthClass_eq, if_neg (show n ≠ 8 by omega), if_pos h]

/-! ## Bytes of the stored packet (rule R77) -/

/-- Byte `k` of a stored packet is the arena's byte `k` past the packet's start. -/
theorem pktByte_readBytes {m : Mem} {a n k : Nat} (h : k < n) : pktByte (m.readBytes a n) k = m.read (a + k) :=
  m.readBytes_getD n a k h

/-- The first bytes read are a shorter read. -/
theorem Mem.take_readBytes (m : Mem) : ∀ {k n : Nat} (a : Nat), k ≤ n → (m.readBytes a n).take k = m.readBytes a k
  | 0, _, _, _ => rfl
  | k + 1, n + 1, a, h => by
    simp only [Mem.readBytes, List.take_succ_cons, Mem.take_readBytes m (a + 1) (Nat.le_of_succ_le_succ h)]

/-! ## The verdict, bit by bit (rules R243 to R255) -/

/-- What each failure says of the packet of descriptor `d`, in bytes of the arena (rules R244 to R255). -/
def HasFailure (crc : List Byte → Byte) (s : State) (d : RxDesc) : Failure → Prop :=
  let n := d.len.toNat
  let a := d.ptr.toNat
  let byte := fun k => s.arena.read (a + k)
  fun
  | .eep => d.ctrl.getLsbD 1 = true
  | .trunc => d.ctrl.getLsbD 2 = true
  | .len => n ≠ 8 ∧ n < 13
  | .crc => (n = 8 ∧ crc (s.arena.readBytes a 8) ≠ 0) ∨
      (13 ≤ n ∧ ¬(crc (s.arena.readBytes a 12) = 0 ∧ crc (s.arena.readBytes a n) = 0))
  | .destAddr => (n = 8 ∨ 13 ≤ n) ∧ byte 0 ≠ s.regs.srcAddr
  | .protocol => (n = 8 ∨ 13 ≤ n) ∧ byte 1 ≠ 0x01
  | .instrType => (n = 8 ∨ 13 ≤ n) ∧ byte 2 &&& 0xC0 ≠ 0 ∧ byte 3 ≠ 2
  | .instr => (n = 8 ∨ 13 ≤ n) ∧ byte 2 &&& 0xC0 ≠ 0 ∧ byte 3 = 2
  | .srcAddr => (n = 8 ∨ 13 ≤ n) ∧ byte 4 ≠ s.regs.destAddr
  | .lenMismatch => 13 ≤ n ∧ (byte 8).toNat * 65536 + (byte 9).toNat * 256 + (byte 10).toNat + 13 ≠ n
  | .wrongReply => (n = 8 ∧ (byte 2).getLsbD 5 = false) ∨ (13 ≤ n ∧ (byte 2).getLsbD 5 = true)

/-- A packet of bad length: only the descriptor's bits and the length bit can be set (rule R246). -/
theorem getLsbD_verdict_of_bad {d : RxDesc} (p : List Byte) (h8 : d.len.toNat ≠ 8) (h13 : d.len.toNat < 13)
    (f : Failure) : (verdict crc s d p).getLsbD f.bit = true ↔ HasFailure crc s d f := by
  have h13' : ¬13 ≤ d.len.toNat := Nat.not_le.2 h13
  rw [verdict_of_bad (lengthClass_of_bad h8 h13)]
  simp only [BitVec.getLsbD_or, getLsbD_classifiedBit, Failure.getLsbD_maskIf]
  cases f <;> simp [Failure.bit, HasFailure, RxDesc.eep, RxDesc.trunc, h8, h13, h13']

/-- A packet of 8 bytes: one checksum, and the header of a write reply (rules R247, R249, R258). -/
theorem getLsbD_verdict_of_writeReply {d : RxDesc} (h : d.len.toNat = 8) (f : Failure) :
    (verdict crc s d (s.arena.readBytes d.ptr.toNat d.len.toNat)).getLsbD f.bit = true ↔ HasFailure crc s d f := by
  have hcls : lengthClass 8 = .writeReply := rfl
  have hbyte : ∀ k < 8, pktByte (s.arena.readBytes d.ptr.toNat 8) k = s.arena.read (d.ptr.toNat + k) :=
    fun k hk => pktByte_readBytes hk
  have htake : (s.arena.readBytes d.ptr.toNat 8).take 8 = s.arena.readBytes d.ptr.toNat 8 :=
    Mem.take_readBytes s.arena _ le_rfl
  rw [verdict_of_good (by rw [h, hcls]; decide), h, hcls]
  simp only [checkRmapHeader, checkCrc, BitVec.getLsbD_or, getLsbD_classifiedBit, Failure.getLsbD_maskIf]
  cases f <;> simp [Failure.bit, HasFailure, RxDesc.eep, RxDesc.trunc, h, hbyte, htake, wrReplyLen, protocolId,
    typeBits, statusUnusedType, isWrite]

/-- A packet of 13 bytes or more: both checksums, the header of a read reply and its data length (rules R247, R249,
R255, R259). -/
theorem getLsbD_verdict_of_readReply {d : RxDesc} (h : 13 ≤ d.len.toNat) (f : Failure) :
    (verdict crc s d (s.arena.readBytes d.ptr.toNat d.len.toNat)).getLsbD f.bit = true ↔ HasFailure crc s d f := by
  have h8 : d.len.toNat ≠ 8 := by omega
  have h13 : ¬d.len.toNat < 13 := Nat.not_lt.2 h
  have hcls := lengthClass_of_long h
  have hbyte : ∀ k < 13, pktByte (s.arena.readBytes d.ptr.toNat d.len.toNat) k = s.arena.read (d.ptr.toNat + k) :=
    fun k hk => pktByte_readBytes (by omega)
  have htake : (s.arena.readBytes d.ptr.toNat d.len.toNat).take 12 = s.arena.readBytes d.ptr.toNat 12 :=
    Mem.take_readBytes s.arena _ (by omega)
  have hkind : (LengthClass.readReply == .writeReply) = false := rfl
  rw [verdict_of_good (by rw [hcls]; decide), hcls]
  simp only [checkRmapHeader, checkCrc, BitVec.getLsbD_or, getLsbD_classifiedBit, Failure.getLsbD_maskIf]
  cases f <;> simp [Failure.bit, HasFailure, RxDesc.eep, RxDesc.trunc, h, h8, h13, hbyte, htake, rdReplyHdrLen,
    rdReplyMinLen, protocolId, typeBits, statusUnusedType, isWrite, be24, hkind, imp_iff_not_or]

/-- Each failure bit of a slot's verdict is set exactly when the slot's packet has the failure. -/
theorem getLsbD_verdict_iff (i : Nat) (f : Failure) :
    (verdict crc s (s.rxAt i) (s.pkt i)).getLsbD f.bit = true ↔ HasFailure crc s (s.rxAt i) f := by
  by_cases h8 : (s.rxAt i).len.toNat = 8
  · exact getLsbD_verdict_of_writeReply h8 f
  · by_cases h13 : (s.rxAt i).len.toNat < 13
    · exact getLsbD_verdict_of_bad _ h8 h13 f
    · exact getLsbD_verdict_of_readReply (Nat.not_lt.1 h13) f

/-! ## Classified entries (rule R241) -/

theorem entryAfter_of_classified {j : Nat} (h : (s.ftAt j).getLsbD 0 = true) : entryAfter crc s j = s.ftAt j :=
  if_pos h

/-- A search for a reply keeps every verdict. -/
theorem getReplyBody_ftAt_of_classified {j : Nat} (c : Nat) (h : (s.ftAt j).getLsbD 0 = true) :
    (getReplyBody crc c s).1.ftAt j = s.ftAt j := by
  obtain ⟨ft, events, ptr, len, hbody, -, hentry, -⟩ := getReplyBody_frame (crc := crc) c s
  rw [hbody]
  exact (hentry j).elim id fun he => he.trans (entryAfter_of_classified h)

/-- A channel reset clears every entry (rule R157). -/
theorem cleared_ftAt (s : State) (j : Nat) : (cleared s).ftAt j = 0 := getD_replicate ..

/-- A command keeps every verdict, or it resets the channel and clears the entry. -/
theorem Effect.ftAt_of_classified {i : Instr} {t : State} {j : Nat} (he : Effect crc i s t)
    (h : (s.ftAt j).getLsbD 0 = true) : t.ftAt j = s.ftAt j ∨ (t.ftAt j = 0 ∧ resetsChannel i = true) := by
  cases he with
  | looked c => exact .inl (getReplyBody_ftAt_of_classified c h)
  | reset es e code hr | unbound es e hr | bound port dest src es e hr => exact .inr ⟨cleared_ftAt s j, hr⟩
  | _ => exact .inl rfl

/-- A poll keeps every verdict. -/
theorem poll_ftAt_of_classified {c start timeout j : Nat} {t : State} (hp : poll crc c start timeout s = .next t)
    (h : (s.ftAt j).getLsbD 0 = true) : t.ftAt j = s.ftAt j := by
  have hbody := getReplyBody_ftAt_of_classified (crc := crc) c h
  obtain ⟨-, ⟨-, rfl⟩ | ⟨-, e, -, ⟨-, rfl⟩ | ⟨-, rfl⟩⟩⟩ := poll_next hp <;> exact hbody

end Lemmas

/-! ## The statements -/

/-- Settles O33: the entry is the slot's verdict, whose bits are read off failure by failure. -/
theorem verdictBits : Obligations.VerdictBits := by
  intro crc s i n a d byte f hi hd hn ha hbyte hf hen hzero hentry
  subst hd hn ha
  obtain rfl : byte = fun k => s.arena.read ((s.rxAt i).ptr.toNat + k) := funext hbyte
  have hready := RxDesc.ready_iff.2 ⟨hen, hzero⟩
  obtain rfl : f = verdict crc s (s.rxAt i) (s.pkt i) := hentry.trans (classify_ftAt_of_ready hi hf hready)
  have hbit := getLsbD_verdict_iff (crc := crc) (s := s) i
  exact ⟨classify_of_ready hf hready, verdict_classified .., Bool.eq_iff_iff.2 (hbit .eep),
    Bool.eq_iff_iff.2 (hbit .trunc), hbit .len, hbit .crc, hbit .destAddr, hbit .protocol, hbit .instrType,
    hbit .instr, hbit .srcAddr, hbit .lenMismatch, hbit .wrongReply, verdict_reserved _ _ _⟩

/-- Settles O35, by what a step can be: commands and polls act on the table through `Effect` and `getReplyBody`, every
other step leaves it alone. -/
theorem classifiedOnce : Obligations.ClassifiedOnce := by
  intro s t j hstep h
  obtain ⟨-, hadv⟩ := step_next hstep
  rcases advance_next hadv with ⟨rest, w, i, hidle, hagenda, hdecode, hexec⟩ | ⟨rest, w, -, -, rfl⟩ |
    ⟨rest, offset, v, -, -, args, rfl⟩ | ⟨rest, offset, -, -, v, events, rfl⟩ | ⟨rest, a, b, -, rfl⟩ |
    ⟨rest, k, -, -, -, rfl⟩ | ⟨rest, k, -, -, rfl⟩ | ⟨rest, k, pkt, eep, -, -, -, rfl⟩ | ⟨rest, -, rfl⟩ |
    ⟨rest, c, start, timeout, -, hpoll⟩
  · rcases (exec_effect hexec).ftAt_of_classified (j := j) h with hkept | ⟨hzero, hreset⟩
    · exact .inl hkept
    · exact .inr ⟨hzero, hidle, w, rest, i, hagenda, hdecode, hreset⟩
  iterate 8 exact .inl rfl
  exact .inl (poll_ftAt_of_classified (s := s.withAgenda rest) hpoll h)

end Sys2Proof.Machine

/-! Cookie contexts (spec/45_context.md): what a command can write into a context, and REOPEN of an open cookie. The
lemmas come first, then the statements they settle. -/

namespace Sys2Proof.Machine

open Sys2Proof

section Lemmas

variable {crc : List Byte → Byte} {i : Instr} {s t : State}

/-! ## What becomes of a context (rule R299) -/

/-- What context `c` can hold after command `i` in state `s`: what it held, or what one of the five kinds of command
that write a context puts there. -/
inductive CtxAfter (i : Instr) (s : State) (c : Nat) : Ctx → Prop
  | kept : CtxAfter i s c (s.ctxAt c)
  /-- rule R290 -/
  | opened : i = .openCookie → CtxAfter i s c (openedCtx s.args)
  /-- rule R293 -/
  | reopened : i = .reOpen c → CtxAfter i s c { s.ctxAt c with addr := s.args.addr, maxlen := s.args.maxlen }
  /-- rule R295 -/
  | closed : i = .close c → CtxAfter i s c { s.ctxAt c with valid := false }
  /-- rule R297 -/
  | addressSet : i = .setAddress c → CtxAfter i s c { s.ctxAt c with addr := s.args.addr }
  /-- spec/41_send.md rules R195, R198 -/
  | sent (ins : Byte) (k : Nat) : sends i = true → handleOperand i = some c →
      CtxAfter i s c ((s.ctxAt c).afterSend s ins s.args.len k)

theorem CtxAfter.of_ctx_eq (ht : t.ctx = s.ctx) (c : Nat) : CtxAfter i s c (t.ctxAt c) := by
  have hkept : t.ctxAt c = s.ctxAt c := congrArg (·.getD c Ctx.zero) ht
  exact hkept ▸ .kept

/-- A write of one context is what becomes of it, and every other context is kept. -/
theorem CtxAfter.of_ctx_set {d : Nat} {k : Ctx} (ht : t.ctx = s.ctx.set d k) (hk : CtxAfter i s d k) (c : Nat) :
    CtxAfter i s c (t.ctxAt c) := by
  have hset : t.ctxAt c = (s.setCtx d k).ctxAt c := congrArg (·.getD c Ctx.zero) ht
  rw [hset, State.ctxAt_setCtx]
  split
  · next h => exact h.1 ▸ hk
  · exact .kept

theorem getReplyBody_ctx (c : Nat) (s : State) : (getReplyBody crc c s).1.ctx = s.ctx := by
  obtain ⟨ft, events, ptr, len, hbody, -⟩ := getReplyBody_frame (crc := crc) c s
  rw [hbody]

/-- What a command's effect leaves in each context. -/
theorem Effect.ctxAfter (he : Effect crc i s t) : ∀ c, CtxAfter i s c (t.ctxAt c) := by
  cases he with
  | looked d => exact .of_ctx_eq (getReplyBody_ctx d s)
  | sent d instruction ptr k hs hd | blocks d instruction ptr k e hs hd =>
    exact .of_ctx_set rfl (.sent _ k hs hd)
  | opened d hi => exact .of_ctx_set rfl (.opened hi)
  | reopened d e hi => exact .of_ctx_set rfl (.reopened hi)
  | closed d hi => exact .of_ctx_set rfl (.closed hi)
  | addressSet d hi => exact .of_ctx_set rfl (.addressSet hi)
  | _ => exact .of_ctx_eq rfl

/-! ## REOPEN of an open cookie (rules R293, R294) -/

/-- A refusal of the active check is passed on, and the cookie is not modified. -/
theorem reOpenBody_of_inactive {c : Nat} {u : State} {code : Code} (hc : s.cookieValid c = true)
    (h : activeBody s = (u, code)) (hcode : code ≠ .ok) : reOpenBody c s = (u, code) := by
  simp only [reOpenBody, hc, h, hcode, Bool.not_true, Bool.false_eq_true, ↓reduceIte]

/-- An active channel: the cookie is retargeted. -/
theorem reOpenBody_of_active {c : Nat} {u : State} (hc : s.cookieValid c = true) (h : activeBody s = (u, .ok)) :
    reOpenBody c s = (u.setCtx c { u.ctxAt c with addr := s.args.addr, maxlen := s.args.maxlen }, .ok) := by
  simp only [reOpenBody, hc, h, Bool.not_true, Bool.false_eq_true, ↓reduceIte]

end Lemmas

/-! ## The statements -/

/-- Settles O17: every clause is read off `CtxAfter`, in which a field that differs from the old one names the
command. -/
theorem cookieLifecycle : Obligations.CookieLifecycle := by
  intro i s t c hexec
  have hafter := (exec_effect hexec).ctxAfter c
  generalize t.ctxAt c = k at hafter ⊢
  cases hafter with
  | kept => simp +contextual
  | opened hi => simp [hi, openedCtx]
  | reopened hi => simp +contextual [hi]
  | closed hi => simp [hi]
  | addressSet hi => simp +contextual [hi]
  | sent ins m hs hc => simp +contextual [hs, hc, Ctx.afterSend]

/-- Settles O46, by the two cases of the active check: no port, and one reading of the link state. -/
theorem reOpenRetargets : Obligations.ReOpenRetargets := by
  intro s c hlt hvalid
  have hc := (s.cookieValid_iff c).2 ⟨hlt, hvalid⟩
  have hexec : exec (.reOpen c) s = complete (reOpenBody c s) := rfl
  rcases activeBody_cases s with ⟨hport, hbody⟩ | ⟨hport, link, e, hbody, hhead, hread⟩
  · refine ⟨fun _ => ?_, fun hne => absurd hport hne⟩
    rw [hexec, reOpenBody_of_inactive hc hbody (by decide)]
    rfl
  · refine ⟨fun heq => absurd heq hport, fun _ => ⟨link, e, hread, hhead, ?_⟩⟩
    by_cases hrun : link = 5
    · rw [if_pos hrun] at hbody ⊢
      rw [hexec, reOpenBody_of_active hc hbody]
      rfl
    · rw [if_neg hrun] at hbody ⊢
      rw [hexec, reOpenBody_of_inactive hc hbody (by decide)]
      rfl

end Sys2Proof.Machine

/-! The DMA agent (spec/47_dma_agent.md): what its three steps write, when they exist, and that each completes one
enabled descriptor and no other. The lemmas come first, then the statements they settle. -/

namespace Sys2Proof.Machine

open Sys2Proof

section Lemmas

variable {crc : List Byte → Byte} {s t : State}

/-! ## Completed descriptors (rules R333, R335, R336) -/

@[simp] theorem TxDesc.en_sent (d : TxDesc) : d.sent.en = false := by
  simp [TxDesc.en, TxDesc.sent]

@[simp] theorem TxDesc.en_failed (d : TxDesc) : d.failed.en = false := by
  simp [TxDesc.en, TxDesc.failed]

@[simp] theorem RxDesc.en_received (d : RxDesc) (n : Nat) (trunc eep : Bool) : (d.received n trunc eep).en = false := by
  cases trunc <;> cases eep <;> simp [RxDesc.en, RxDesc.received]

/-- The control word of a received descriptor: the low three bits are replaced by `EEP` and `TRUNC`. -/
theorem RxDesc.received_eq (d : RxDesc) (n : Nat) (long : Prop) [Decidable long] (eep : Bool) :
    d.received n (decide long) eep =
      { ctrl := (d.ctrl &&& 0xFFFFFFF8) ||| (if eep then 0x00000002 else 0) ||| (if long then 0x00000004 else 0)
        ptr := d.ptr, len := BitVec.ofNat 32 n } := by
  simp only [RxDesc.received, decide_eq_true_eq]
  rfl

/-! ## The payload (rules R79, R334) -/

@[simp] theorem State.hostBytes_length (s : State) : ∀ n a j, (s.hostBytes a j n).length = n
  | 0, _, _ => rfl
  | n + 1, a, j => congrArg Nat.succ (State.hostBytes_length s n (a + 1) (j + 1))

/-- Below `2^32` a payload byte is the byte of `HOSTMEM`. -/
theorem State.getD_hostBytes (s : State) : ∀ {n a j k : Nat}, k < n → a + k < 2 ^ 32 →
    (s.hostBytes a j n).getD k 0 = s.hostMem.read (a + k)
  | _ + 1, _, _, 0, _, ha => if_pos ha
  | n + 1, a, j, k + 1, hk, ha => by
    have htail : (s.hostBytes (a + 1) (j + 1) n).getD k 0 = s.hostMem.read (a + 1 + k) :=
      State.getD_hostBytes s (by omega) (by omega)
    rw [State.hostBytes, List.getD_cons_succ, htail, Nat.add_right_comm, Nat.add_assoc]

/-! ## The slot (rule R336) -/

/-- Where the bytes `vs` are stored the arena reads as they do, elsewhere as before. -/
theorem Mem.read_writeBytes {m : Mem} (h : m.wf = true) (a : Nat) (vs : List Byte) (x : Nat) :
    (m.writeBytes a vs).read x = if a ≤ x ∧ x < a + vs.length then vs.getD (x - a) 0 else m.read x := by
  split
  · rename_i hin
    obtain ⟨k, rfl⟩ := Nat.exists_eq_add_of_le hin.1
    rw [Nat.add_sub_cancel_left]
    exact Mem.read_writeBytes_same h (by omega)
  · exact Mem.read_writeBytes_other h (by omega)

/-- A byte of a list cut to `cap` is the byte of the list. -/
theorem getD_take_of_lt {vs : List Byte} {cap k : Nat} (h : k < cap) : (vs.take cap).getD k 0 = vs.getD k 0 := by
  rw [List.getD_eq_getElem?_getD, List.getElem?_take_of_lt h, List.getD_eq_getElem?_getD]

/-! ## When a step of the agent exists, and what it leaves (rules R331, R333, R335, R336) -/

theorem txEnabled_iff {k : Nat} : txEnabled s k = true ↔ s.regs.port ≠ 0xFF ∧ (s.txAt k).en = true := by
  rw [txEnabled, Bool.and_eq_true, State.bound_iff]

theorem rxEnabled_iff {k : Nat} : rxEnabled s k = true ↔ s.regs.port ≠ 0xFF ∧ (s.rxAt k).en = true := by
  rw [rxEnabled, Bool.and_eq_true, State.bound_iff]

/-- A step that is refused unless `b` goes on exactly where `b` holds and what it guards goes on. -/
theorem ite_refused_eq_next {b : Bool} {o : Host.Outcome State Fault Refusal} {r : Refusal} :
    (if b then o else .refused r) = .next t ↔ b = true ∧ o = .next t := by
  cases b <;> simp

theorem dmaTx_next {k : Nat} : dmaTx crc k s = .next t ↔
    txEnabled s k = true ∧ s.pointersInRange = true ∧ t = transmitted crc k s := by
  rw [dmaTx, ite_refused_eq_next, guardPointers_next, Host.Outcome.next.injEq, @eq_comm _ t]

theorem dmaTxErr_next {k : Nat} : dmaTxErr k s = .next t ↔
    txEnabled s k = true ∧ t = s.setTx k (s.txAt k).failed := by
  rw [dmaTxErr, ite_refused_eq_next, Host.Outcome.next.injEq, @eq_comm _ t]

theorem dmaRx_next {k : Nat} {pkt : List Byte} {eep : Bool} : dmaRx k pkt eep s = .next t ↔
    rxEnabled s k = true ∧ s.pointersInRange = true ∧ t = received k pkt eep s := by
  rw [dmaRx, ite_refused_eq_next, guardPointers_next, Host.Outcome.next.injEq, @eq_comm _ t]

section Agenda

variable {rest : List Input} {k : Nat}

theorem step_dmaTx (hok : s.cfg.ok = true) (ha : s.env.agenda = .dmaTx k :: rest) :
    step s = dmaTx (crc8 s.cfg) k (s.withAgenda rest) := by
  rw [step, stepMachine, if_pos hok, advance, ha]

theorem step_dmaTxErr (hok : s.cfg.ok = true) (ha : s.env.agenda = .dmaTxErr k :: rest) :
    step s = dmaTxErr k (s.withAgenda rest) := by
  rw [step, stepMachine, if_pos hok, advance, ha]

theorem step_dmaRx {pkt : List Byte} {eep : Bool} (hok : s.cfg.ok = true)
    (ha : s.env.agenda = .dmaRx k pkt eep :: rest) : step s = dmaRx k pkt eep (s.withAgenda rest) := by
  rw [step, stepMachine, if_pos hok, advance, ha]

end Agenda

/-! ## One completion (rule R340) -/

/-- From the ring `before` to the ring `after`, entry `k`, which was enabled, is completed, and no other entry
changes. -/
structure Completes {α : Type} (en : α → Bool) (k : Nat) (before after : Nat → α) : Prop where
  enabled : en (before k) = true
  completed : en (after k) = false
  others : ∀ j, j ≠ k → after j = before j

section Completes

variable {α : Type} {en : α → Bool} {k : Nat} {before after : Nat → α}

/-- An entry that was not enabled is as it was. -/
theorem Completes.eq_of_not_en (h : Completes en k before after) (j : Nat) (hj : en (before j) = false) :
    after j = before j :=
  h.others j fun hjk => by rw [hjk, h.enabled] at hj; cases hj

/-- An entry that is enabled afterwards is as it was: no entry becomes enabled. -/
theorem Completes.eq_of_en (h : Completes en k before after) (j : Nat) (hj : en (after j) = true) :
    after j = before j :=
  h.others j fun hjk => by rw [hjk, h.completed] at hj; cases hj

/-- An enabled entry is one of the ring's, so that storing a completed one completes it. -/
theorem completes_set {l : List α} {z d : α} (hz : en z = false) (he : en (l.getD k z) = true) (hd : en d = false) :
    Completes en k (fun j => l.getD j z) (fun j => (l.set k d).getD j z) where
  enabled := he
  completed := by
    have hk : k < l.length := by
      by_contra hk
      rw [List.getD_eq_default _ _ (Nat.not_lt.1 hk), hz] at he
      cases he
    rw [getD_set, if_pos ⟨rfl, hk⟩, hd]
  others j hj := by rw [getD_set, if_neg fun hc => hj hc.1]

end Completes

/-- What a step of the agent, input `a`, makes of state `s`: it completes one TX descriptor, or one RX descriptor with
bytes of its slot; beside that it changes the wire and the model's own fields at most. -/
inductive DmaCompletes (s : State) : Input → State → Prop
  | tx {a : Input} {k : Nat} {d : TxDesc} {wire : List (List Byte)} {env : Env} (ha : a = .dmaTx k ∨ a = .dmaTxErr k)
      (hring : Completes TxDesc.en k s.txAt (s.setTx k d).txAt) :
      DmaCompletes s a { s.setTx k d with wire, env }
  | rx {k : Nat} {pkt : List Byte} {eep : Bool} {d : RxDesc} {arena : Mem} {env : Env}
      (hring : Completes RxDesc.en k s.rxAt (s.setRx k d).rxAt)
      (hslot : ∀ x, arena.read x ≠ s.arena.read x →
        (s.rxAt k).ptr.toNat ≤ x ∧ x < (s.rxAt k).ptr.toNat + (s.rxAt k).len.toNat) :
      DmaCompletes s (.dmaRx k pkt eep) { s.setRx k d with arena, env }

/-- The bytes a reception stores stand in its slot. -/
theorem received_inside_slot (hwf : s.arena.wf = true) (d : RxDesc) (pkt : List Byte) (x : Nat)
    (hx : (s.arena.writeBytes d.ptr.toNat (pkt.take d.len.toNat)).read x ≠ s.arena.read x) :
    d.ptr.toNat ≤ x ∧ x < d.ptr.toNat + d.len.toNat := by
  have hle : (pkt.take d.len.toNat).length ≤ d.len.toNat := List.length_take_le ..
  rw [Mem.read_writeBytes hwf] at hx
  split at hx
  · omega
  · exact absurd rfl hx

/-- Every step of the agent is one completion. -/
theorem step_dmaCompletes {a : Input} {rest : List Input} (hwf : s.arena.wf = true) (ha : s.env.agenda = a :: rest)
    (hdma : (∃ k, a = .dmaTx k) ∨ (∃ k, a = .dmaTxErr k) ∨ ∃ k pkt eep, a = .dmaRx k pkt eep)
    (h : step s = .next t) : DmaCompletes s a t := by
  obtain ⟨hok, -⟩ := step_next h
  rcases hdma with ⟨k, rfl⟩ | ⟨k, rfl⟩ | ⟨k, pkt, eep, rfl⟩
  · rw [step_dmaTx hok ha, dmaTx_next] at h
    obtain ⟨he, -, rfl⟩ := h
    exact .tx (.inl rfl) (completes_set rfl (txEnabled_iff.1 he).2 (TxDesc.en_sent _))
  · rw [step_dmaTxErr hok ha, dmaTxErr_next] at h
    obtain ⟨he, rfl⟩ := h
    exact .tx (.inr rfl) (completes_set rfl (txEnabled_iff.1 he).2 (TxDesc.en_failed _))
  · rw [step_dmaRx hok ha, dmaRx_next] at h
    obtain ⟨he, -, rfl⟩ := h
    exact .rx (completes_set rfl (rxEnabled_iff.1 he).2 (RxDesc.en_received ..))
      (received_inside_slot hwf (s.rxAt k) pkt)

end Lemmas

/-! ## The statements -/

/-- Settles O49: the step is the transmission, and its payload is what the engine reads of the host's memory. -/
theorem dmaTransmits : Obligations.DmaTransmits := by
  rintro s t rest _ _ hok ha rfl hport hen hptr rfl
  have henabled : txEnabled (s.withAgenda rest) t = true := txEnabled_iff.2 ⟨hport, hen⟩
  refine ⟨(s.withAgenda rest).hostBytes (s.txAt t).dptr.toNat 0 (s.txAt t).len.toNat, State.hostBytes_length ..,
    fun k hk hbelow => State.getD_hostBytes _ hk hbelow, ?_⟩
  rw [step_dmaTx hok ha, dmaTx_next.2 ⟨henabled, hptr, rfl⟩]
  rfl

/-- Settles O50: the step stores the failed descriptor. -/
theorem dmaTransmissionFails : Obligations.DmaTransmissionFails := by
  rintro s t rest _ hok ha rfl hport hen
  have henabled : txEnabled (s.withAgenda rest) t = true := txEnabled_iff.2 ⟨hport, hen⟩
  rw [step_dmaTxErr hok ha, dmaTxErr_next.2 ⟨henabled, rfl⟩]
  rfl

/-- Settles O51: the step stores the packet, cut to the slot's capacity, and the received descriptor. -/
theorem dmaReceives : Obligations.DmaReceives := by
  rintro s i _ pkt eep rest _ hok ha rfl hport hen hptr hwf rfl
  have henabled : rxEnabled (s.withAgenda rest) i = true := rxEnabled_iff.2 ⟨hport, hen⟩
  have hlen : (pkt.take (s.rxAt i).len.toNat).length = min pkt.length (s.rxAt i).len.toNat := by
    rw [List.length_take, Nat.min_comm]
  refine ⟨s.arena.writeBytes (s.rxAt i).ptr.toNat (pkt.take (s.rxAt i).len.toNat), Mem.writeBytes_wf hwf,
    fun a => ?_, ?_⟩
  · rw [Mem.read_writeBytes hwf, hlen]
    split
    · exact getD_take_of_lt (by omega)
    · rfl
  · rw [step_dmaRx hok ha, dmaRx_next.2 ⟨henabled, hptr, rfl⟩, ← hlen, ← RxDesc.received_eq]
    rfl

/-- Settles O52: the step is one completion, which changes one enabled descriptor and for a reception bytes of its
slot. -/
theorem dmaAgentNever : Obligations.DmaAgentNever := by
  intro s t a rest hwf ha hdma hstep
  cases step_dmaCompletes hwf ha hdma hstep with
  | @tx _ k d wire env hk hring =>
    refine ⟨rfl, rfl, rfl, rfl, rfl, rfl, rfl, rfl, rfl, rfl, hring.eq_of_not_en, fun _ _ => rfl, hring.eq_of_en,
      fun _ _ => rfl, fun k' hk' => ?_, fun k' pkt eep hrx => ?_, fun x hx => absurd rfl hx⟩
    · obtain rfl : k = k' := by rcases hk with rfl | rfl <;> simpa using hk'
      exact ⟨hring.enabled, hring.completed⟩
    · rcases hk with rfl | rfl <;> cases hrx
  | @rx k pkt eep d arena env hring hslot =>
    refine ⟨rfl, rfl, rfl, rfl, rfl, rfl, rfl, rfl, rfl, rfl, fun _ _ => rfl, hring.eq_of_not_en, fun _ _ => rfl,
      hring.eq_of_en, fun k' htx => ?_, fun k' pkt' eep' hrx => ?_,
      fun x hx => ⟨k, pkt, eep, rfl, hring.enabled, hslot x hx⟩⟩
    · rcases htx with h | h <;> cases h
    · cases hrx
      exact ⟨hring.enabled, hring.completed⟩

end Sys2Proof.Machine

/-! Exceptions (spec/60_exceptions.md): the illegal command word, the handle that names no open cookie, and the two
event registers. The lemmas come first, then the statements they settle. -/

namespace Sys2Proof

section Lemmas

/-! ## Accepted words are encoded commands (rules R101 to R105) -/

/-- Every command's own row of the table is there and selects its word (rule R104). -/
theorem encodedRow : ∀ i : Instr, Laws.EncodedRow.Statement i
  | .reset => Laws.EncodedRow.reset
  | .isActive => Laws.EncodedRow.isActive
  | .setPort port => Laws.EncodedRow.setPort port
  | .sendCommand c instruction => Laws.EncodedRow.sendCommand c instruction
  | .getReply c => Laws.EncodedRow.getReply c
  | .sendCommandBlocking c => Laws.EncodedRow.sendCommandBlocking c
  | .setPortAddr port => Laws.EncodedRow.setPortAddr port
  | .openCookie => Laws.EncodedRow.openCookie
  | .reOpen c => Laws.EncodedRow.reOpen c
  | .close c => Laws.EncodedRow.close c
  | .setAddress c => Laws.EncodedRow.setAddress c
  | .getAddress c => Laws.EncodedRow.getAddress c
  | .sendWrite c => Laws.EncodedRow.sendWrite c
  | .getWriteReply c => Laws.EncodedRow.getWriteReply c
  | .sendRead c => Laws.EncodedRow.sendRead c
  | .getReadReply c => Laws.EncodedRow.getReadReply c
  | .writeBlocking c => Laws.EncodedRow.writeBlocking c
  | .readBlocking c => Laws.EncodedRow.readBlocking c
  | .resetViaCookie c => Laws.EncodedRow.resetViaCookie c

variable {w : Word} {i : Instr}

theorem encodeHandle_handleOf (w : Word) : encodeHandle (handleOf w) = cookieField w :=
  BitVec.ofNat_toNat .. |>.trans (BitVec.setWidth_eq _)

theorem encodePort_portOf (w : Word) : encodePort (portOf w) = immField w := BitVec.ofInt_toInt

theorem opField_eq_ofNat {n : Nat} (h : (opField w).toNat = n) : opField w = BitVec.ofNat 8 n :=
  h ▸ (BitVec.ofNat_toNat .. |>.trans (BitVec.setWidth_eq _)).symm

section ZeroField
variable (hz : zeroField w = 0)
include hz

/-- A word the decoder reads as a command without fields is that command's word. -/
theorem encode_of_decodePlain {j : Instr} (hj : encode j = commandWord (opField w) 0 0)
    (h : decodePlain w j = .ok i) : encode i = w := by
  unfold decodePlain at h
  split_ifs at h with hcookie himm
  cases h
  have hfields := commandWord_fields hz
  rw [not_not.1 hcookie, not_not.1 himm] at hfields
  exact hj.trans hfields

/-- A word the decoder reads as a command on a cookie is that command's word. -/
theorem encode_of_decodeCookie {j : Nat → Instr}
    (hj : encode (j (handleOf w)) = commandWord (opField w) (encodeHandle (handleOf w)) 0)
    (h : decodeCookie w j = .ok i) : encode i = w := by
  unfold decodeCookie at h
  split_ifs at h with himm
  cases h
  rw [hj, encodeHandle_handleOf, ← not_not.1 himm, commandWord_fields hz]

/-- A word the decoder reads as a command on a port is that command's word. -/
theorem encode_of_decodePort {j : Int → Instr}
    (hj : encode (j (portOf w)) = commandWord (opField w) 0 (encodePort (portOf w)))
    (h : decodePort w j = .ok i) : encode i = w := by
  unfold decodePort at h
  split_ifs at h with hcookie
  cases h
  rw [hj, encodePort_portOf, ← not_not.1 hcookie, commandWord_fields hz]

end ZeroField

/-- An accepted word is the word of the command the decoder reads. -/
theorem encode_of_decode (h : decode w = .ok i) : encode i = w := by
  unfold decode at h
  split_ifs at h with hzero
  have hz := not_not.1 hzero
  split at h
  case h_1 hop | h_2 hop | h_8 hop =>
    exact encode_of_decodePlain hz (by rw [opField_eq_ofNat hop]; rfl) h
  case h_3 hop | h_7 hop =>
    exact encode_of_decodePort hz (by rw [opField_eq_ofNat hop]; rfl) h
  case h_4 hop =>
    cases h
    rw [encode, encodeHandle_handleOf]
    have hfields := commandWord_fields hz
    rw [opField_eq_ofNat hop] at hfields
    exact hfields
  case h_20 => cases h
  all_goals exact encode_of_decodeCookie hz (by rw [opField_eq_ofNat ‹_›]; rfl) h

/-- The decoder accepts no word that no row of the table selects (rule R105). -/
theorem decode_eq_error_of_no_row (h : ∀ r ∈ opcodeRows, r.selects w = false) : ∃ e, decode w = .error e := by
  cases hd : decode w with
  | error e => exact ⟨e, rfl⟩
  | ok i =>
    obtain ⟨hmem, hselects⟩ := encodedRow i
    rw [encode_of_decode hd, h _ hmem] at hselects
    cases hselects

end Lemmas

end Sys2Proof

namespace Sys2Proof.Machine

open Sys2Proof

section Lemmas

variable {s : State} {c : Nat} {i : Instr}

/-! ## The command port (rules R32, R105, R357) -/

/-- A word without a meaning ends with `ILLEGAL_COMMAND`. -/
theorem runWord_of_error {run : Runner} {w : Word} {e : IllegalWord} (h : decode w = .error e) :
    runWord run w s = .next (ended s 0x010F) := by
  rw [runWord, h]
  rfl

/-- A write of `CMD` with the port free runs the word. -/
theorem step_write_cmd {w : Word} {rest : List Input} (hok : s.cfg.ok = true) (hs : s.seq = .idle)
    (ha : s.env.agenda = .write 0x00 w :: rest) : step s = runWord exec w (s.withAgenda rest) := by
  rw [step_of_ok hok, advance_write hs ha, hostWrite_cmd]

/-- A read with the port free reads the register. -/
theorem step_read {offset : Word} {rest : List Input} (hok : s.cfg.ok = true) (hs : s.seq = .idle)
    (ha : s.env.agenda = .read offset :: rest) : step s = .next (hostRead offset (s.withAgenda rest)) := by
  rw [step_of_ok hok, advance_read hs ha]

/-! ## No open cookie, no pointer (rules R311, R356) -/

/-- A blocking command on no open cookie ends with the refusal of its send. -/
theorem blockingSend_of_not_cookieValid {write : Bool} {ptr datalen timeout : Word}
    (hc : ¬(c < s.cfg.nCookies ∧ (s.ctxAt c).valid = true)) :
    blockingSend c write ptr datalen timeout s = complete (s, .commandNoChannel) := by
  simp [blockingSend, sendBody_of_not_cookieValid hc]

/-- The null pointer is refused before the cookie is looked at (rules R312, R316). -/
theorem exec_of_null_pointer (hi : checksPointer i = true) (hptr : s.args.ptr = 0) :
    exec i s = .next (ended s 0x010E) := by
  have hnull : isNull s.args.ptr = true := beq_iff_eq.2 hptr
  cases i with
  | sendWrite c | writeBlocking c => exact if_pos hnull
  | _ => cases hi

/-- Past the pointer test, a handle that names no open cookie is refused (rule R356). -/
theorem exec_of_not_cookieValid (hi : handleOperand i = some c)
    (hc : ¬(c < s.cfg.nCookies ∧ (s.ctxAt c).valid = true)) (hptr : ¬(checksPointer i = true ∧ s.args.ptr = 0)) :
    exec i s = .next (ended s 0x0101) := by
  change exec i s = complete (s, .commandNoChannel)
  have hinvalid : (!s.cookieValid c) = true := by simpa [← s.cookieValid_iff] using hc
  cases i with
  | reset | isActive | setPort | setPortAddr | openCookie => cases hi
  | sendCommand => cases hi; exact congrArg complete (sendBody_of_not_cookieValid hc)
  | sendCommandBlocking => cases hi; exact blockingSend_of_not_cookieValid hc
  | reOpen | close | setAddress | getAddress => cases hi; exact congrArg complete (if_pos hinvalid)
  | getReply | getWriteReply | sendRead | getReadReply | readBlocking | resetViaCookie =>
    cases hi; exact if_pos hinvalid
  | sendWrite | writeBlocking =>
    cases hi
    have hnull : ¬isNull s.args.ptr = true := fun h => hptr ⟨rfl, beq_iff_eq.1 h⟩
    exact (if_neg hnull).trans (if_pos hinvalid)

/-! ## The event registers (rule R361) -/

theorem popEvent_of_nil (h : s.events = []) : popEvent s = (0, s) := by rw [popEvent, h]

theorem popEvent_of_cons {e : Event} {es : List Event} (h : s.events = e :: es) :
    popEvent s = (e.toWord, { s with events := es }) := by rw [popEvent, h]

/-- A read of `EVENT_POP` returns the popped word. -/
theorem hostRead_eventPop {v : Word} {t : State} (h : popEvent s = (v, t)) :
    hostRead 0x30 s = t.setEnv { t.env with readData := v } := by
  change (popEvent s).2.setEnv { (popEvent s).2.env with readData := (popEvent s).1 } = _
  rw [h]

/-- The entries of a correct table of identifiers are the identifiers (rule R362). -/
theorem EventKind.id_eq_of_mem {table : List (EventKind × Byte)} (htable : ∀ p ∈ table, p.1.id = p.2)
    {k : EventKind} {id : Byte} (h : (k, id) ∈ table) : k.id = id :=
  htable _ h

/-- `EVENT_COUNT` by cases: exact below `2^32`, saturated past it. -/
theorem eventCount_eq_if (s : State) :
    eventCount s = BitVec.ofNat 32 (if s.events.length < 2 ^ 32 then s.events.length else 2 ^ 32 - 1) := by
  unfold eventCount
  congr 1
  split <;> omega

end Lemmas

/-! ## The statements -/

/-- Settles O6: a word that no row selects does not decode. -/
theorem illegalWordChangesOnlyResult : Obligations.IllegalWordChangesOnlyResult := by
  intro s w rest hok hs ha hrows
  obtain ⟨e, he⟩ := decode_eq_error_of_no_row hrows
  rw [step_write_cmd hok hs ha, runWord_of_error he]

/-- Settles O19, by whether the pointer test comes first. -/
theorem invalidCookieIsRefused : Obligations.InvalidCookieIsRefused := by
  intro i c s hi hc
  split
  · next hnull => exact exec_of_null_pointer hnull.1 hnull.2
  · next hptr => exact exec_of_not_cookieValid hi hc hptr

/-- Settles O54: the step is the read, of no event, of the oldest, of their number. -/
theorem eventRegisters : Obligations.EventRegisters := by
  intro s rest hok hs
  refine ⟨fun ha hnone => ?_, fun e es id ha hsome hid => ?_, fun ha => ?_⟩
  · have hpop : popEvent (s.withAgenda rest) = (0, s.withAgenda rest) := popEvent_of_nil hnone
    rw [step_read hok hs ha, hostRead_eventPop hpop]
    rfl
  · have hpop : popEvent (s.withAgenda rest) = (e.toWord, { s.withAgenda rest with events := es }) :=
      popEvent_of_cons hsome
    rw [step_read hok hs ha, hostRead_eventPop hpop, Event.toWord, EventKind.id_eq_of_mem (by decide) hid]
    rfl
  · rw [step_read hok hs ha, ← eventCount_eq_if]
    rfl

end Sys2Proof.Machine

/-! Power-on (spec/70_reset_and_hazards.md): the registers and the tables of the state after power-on, then the statement
they settle. -/

namespace Sys2Proof.Machine

open Sys2Proof

section Lemmas

variable (cfg : Build) (u : Unspecified)

/-! ## The controller registers (rule R60) -/

/-- The register value of a port that is not bound. -/
theorem unboundPort_toInt : (0xFF : Byte).toInt = -1 := by decide

@[simp] theorem State.powerOn_port_toInt : (State.powerOn cfg u).regs.port.toInt = -1 := unboundPort_toInt

@[simp] theorem State.powerOn_hkPort_toInt : (State.powerOn cfg u).regs.hkPort.toInt = -1 := unboundPort_toInt

/-! ## The tables: their sizes, and every entry zero (rule R60) -/

@[simp] theorem State.powerOn_tx_length : (State.powerOn cfg u).tx.length = cfg.maxTx := List.length_replicate
@[simp] theorem State.powerOn_rx_length : (State.powerOn cfg u).rx.length = cfg.maxRx := List.length_replicate
@[simp] theorem State.powerOn_ft_length : (State.powerOn cfg u).ft.length = cfg.maxRx := List.length_replicate
@[simp] theorem State.powerOn_ctx_length : (State.powerOn cfg u).ctx.length = cfg.nCookies := List.length_replicate

@[simp] theorem State.powerOn_txAt (t : Nat) : (State.powerOn cfg u).txAt t = TxDesc.zero := getD_replicate ..
@[simp] theorem State.powerOn_rxAt (i : Nat) : (State.powerOn cfg u).rxAt i = RxDesc.zero := getD_replicate ..
@[simp] theorem State.powerOn_ftAt (i : Nat) : (State.powerOn cfg u).ftAt i = 0 := getD_replicate ..
@[simp] theorem State.powerOn_ctxAt (c : Nat) : (State.powerOn cfg u).ctxAt c = Ctx.zero := getD_replicate ..

end Lemmas

/-! ## The statement -/

/-- Settles O10, row by row of rule R60: a field that `State.powerOn` sets directly has its value by definition; the
ports and the tables have theirs by the lemmas above. -/
theorem powerOnState : Obligations.PowerOnState := by
  rintro cfg u s rfl
  exact ⟨rfl, State.powerOn_port_toInt cfg u, State.powerOn_hkPort_toInt cfg u, rfl, rfl, rfl, rfl, rfl,
    State.powerOn_tx_length cfg u, State.powerOn_txAt cfg u, State.powerOn_rx_length cfg u, State.powerOn_rxAt cfg u,
    State.powerOn_ft_length cfg u, State.powerOn_ftAt cfg u, State.powerOn_ctx_length cfg u, State.powerOn_ctxAt cfg u,
    rfl, rfl, rfl, rfl, rfl, rfl, rfl⟩

end Sys2Proof.Machine

/-! The command word (spec/30_encoding.md): the decoder on a word put together from its fields, the table's rows and
what they select, then the statements they settle. -/

namespace Sys2Proof

section Lemmas

/-! ## Decoding a word put together from its fields (rules R101, R102) -/

theorem decodePlain_commandWord (op : Byte) (i : Instr) : decodePlain (commandWord op 0#8 0#8) i = .ok i := by
  simp [decodePlain]

theorem decodeCookie_commandWord (op : Byte) {c : Nat} (h : handleFits c = true) (i : Nat → Instr) :
    decodeCookie (commandWord op (encodeHandle c) 0#8) i = .ok (i c) := by
  simp [decodeCookie, handleOf, handle_roundtrip h]

theorem decodePort_commandWord (op : Byte) {port : Int} (h : portFits port = true) (i : Int → Instr) :
    decodePort (commandWord op 0#8 (encodePort port)) i = .ok (i port) := by
  simp [decodePort, portOf, port_roundtrip h]

/-! ## What the decoder reads is well formed (rule R102) -/

theorem handleFits_handleOf (w : Word) : handleFits (handleOf w) = true :=
  decide_eq_true (cookieField w).isLt

theorem portFits_portOf (w : Word) : portFits (portOf w) = true := by
  have hhi : (immField w).toInt < 128 := BitVec.toInt_lt
  exact Bool.and_eq_true_iff.2 ⟨decide_eq_true (BitVec.le_toInt _), decide_eq_true (Int.le_of_lt_add_one hhi)⟩

variable {w : Word} {i : Instr}

theorem wellFormed_of_decodePlain {j : Instr} (hj : j.wellFormed = true) (h : decodePlain w j = .ok i) :
    i.wellFormed = true := by
  unfold decodePlain at h
  split_ifs at h
  cases h
  exact hj

theorem wellFormed_of_decodeCookie {j : Nat → Instr} (hj : (j (handleOf w)).wellFormed = handleFits (handleOf w))
    (h : decodeCookie w j = .ok i) : i.wellFormed = true := by
  unfold decodeCookie at h
  split_ifs at h
  cases h
  exact hj.trans (handleFits_handleOf w)

theorem wellFormed_of_decodePort {j : Int → Instr} (hj : (j (portOf w)).wellFormed = portFits (portOf w))
    (h : decodePort w j = .ok i) : i.wellFormed = true := by
  unfold decodePort at h
  split_ifs at h
  cases h
  exact hj.trans (portFits_portOf w)

theorem wellFormed_of_decode (h : decode w = .ok i) : i.wellFormed = true := by
  unfold decode at h
  split_ifs at h
  split at h
  case h_1 | h_2 | h_8 => exact wellFormed_of_decodePlain rfl h
  case h_3 | h_7 => exact wellFormed_of_decodePort rfl h
  case h_4 => cases h; exact handleFits_handleOf w
  case h_20 => cases h
  all_goals exact wellFormed_of_decodeCookie rfl h

/-! ## The rows of the table (rule R104) -/

/-- Every row looks at the whole of `OP`, and no two rows at the same `OP`. -/
theorem opcodeRows_eq_of_opField : ∀ r ∈ opcodeRows, opField r.mask = 0xFF ∧
    ∀ r' ∈ opcodeRows, opField r'.pattern = opField r.pattern → r' = r := by decide

/-- A row that selects a word has the word's `OP`. -/
theorem opField_of_selects {r : OpcodeRow} (hr : r ∈ opcodeRows) (h : r.selects w = true) :
    opField r.pattern = opField w := by
  obtain ⟨hop, -⟩ := (r.selects_iff w).1 h
  rw [← hop, (opcodeRows_eq_of_opField r hr).1]
  exact BitVec.and_allOnes

/-- One row at most selects a word. -/
theorem opcodeRow_unique {r r' : OpcodeRow} (hr : r ∈ opcodeRows) (h : r.selects w = true) (hr' : r' ∈ opcodeRows)
    (h' : r'.selects w = true) : r' = r :=
  (opcodeRows_eq_of_opField r hr).2 r' hr' ((opField_of_selects hr' h').trans (opField_of_selects hr h).symm)

theorem byte_and_ff (b : Byte) : b &&& 0xFF#8 = b := BitVec.and_allOnes

/-- The decoder accepts a word that a row selects: row by row, the fields the row fixes are those the decoder tests. -/
theorem decode_of_selects {r : OpcodeRow} (hr : r ∈ opcodeRows) (h : r.selects w = true) : ∃ i, decode w = .ok i := by
  obtain ⟨hop, hcookie, himm, hzero⟩ := (r.selects_iff w).1 h
  fin_cases hr
  all_goals
    simp [opField, cookieField, immField, zeroField, byte_and_ff] at hop hcookie himm hzero
    simp [decode, decodePlain, decodeCookie, decodePort, opField, cookieField, immField, zeroField, hop, hcookie, himm,
      hzero]

end Lemmas

/-! ## The statements -/

/-- Settles O1, by the shape of the command: its word's fields decode to its operands. -/
theorem decodeEncode : Obligations.DecodeEncode := by
  intro i hwf
  cases i with
  | reset | isActive | openCookie => simp [encode, decode, decodePlain_commandWord]
  | setPort port | setPortAddr port => simp [encode, decode, decodePort_commandWord _ (show portFits port = true from hwf)]
  | sendCommand c instruction => simp [encode, decode, handleOf, handle_roundtrip (show handleFits c = true from hwf)]
  | getReply c | sendCommandBlocking c | reOpen c | close c | setAddress c | getAddress c | sendWrite c | getWriteReply c
  | sendRead c | getReadReply c | writeBlocking c | readBlocking c | resetViaCookie c =>
    simp [encode, decode, decodeCookie_commandWord _ (show handleFits c = true from hwf)]

/-- Settles O2: a decoded word is an encoded command, which its own row selects, and one row at most selects a word. -/
theorem decoderAcceptsTheTable : Obligations.DecoderAcceptsTheTable := by
  intro w
  constructor
  · rintro ⟨i, hi⟩
    obtain ⟨hrow, hselects⟩ := encodedRow i
    rw [encode_of_decode hi] at hselects
    exact ⟨rowOf i, hrow, hselects, fun r' hr' h' => opcodeRow_unique hrow hselects hr' h'⟩
  · rintro ⟨r, hr, hselects, -⟩
    exact decode_of_selects hr hselects

/-- Settles O3: the decoder reads operands that fit, and the word is the command's. -/
theorem encodeOfDecoded : Obligations.EncodeOfDecoded :=
  fun _ _ h => ⟨wellFormed_of_decode h, encode_of_decode h⟩

/-- Settles O4, by decoding the words. -/
theorem sampleWordsDecode : Obligations.SampleWordsDecode := by
  unfold Obligations.SampleWordsDecode
  refine ⟨rfl, rfl, rfl, rfl, rfl, rfl, rfl, rfl, rfl, rfl, rfl, rfl, rfl, rfl, rfl, rfl, rfl, rfl, rfl, rfl, rfl,
    nofun, nofun, nofun, nofun⟩

end Sys2Proof

/-! The invariant of a run (spec/10_state.md rule R57): stated by its parts, one for each table, so that a step's proof is
about the part the step writes; what each write does to its part; every command, poll, DMA step and port access keeps the
whole; under it nothing but a DMA step that is not enabled is refused. Then the statements they settle. -/

namespace Sys2Proof.Machine

open Sys2Proof

section Lemmas

/-! ## The parts -/

/-- What holds of a TX descriptor (rule R57 (f); spec/60_exceptions.md rule R355; spec/20_memory.md rule R79). -/
structure TxDescOk (cfg : Build) (d : TxDesc) : Prop where
  reserved : d.ctrl.extractLsb' 4 28 = 0
  noError : d.en = true → d.le = false
  handle : d.hptr.toNat ≤ cfg.nCookies
  named : d.en = true → 1 ≤ d.hptr.toNat

/-- What holds of the TX ring. -/
structure TxRingOk (cfg : Build) (index : Nat) (tx : List TxDesc) : Prop where
  length : tx.length = cfg.maxTx
  indexLe : index ≤ cfg.maxTx
  slots : ∀ t, TxDescOk cfg (tx.getD t TxDesc.zero)

/-- What holds of an RX descriptor and its failure entry (rule R57 (c), (e), (f)). -/
structure RxSlotOk (cfg : Build) (d : RxDesc) (f : Half) : Prop where
  reserved : d.ctrl.extractLsb' 3 29 = 0
  window : d.ptr.toNat + d.len.toNat ≤ cfg.arenaSize
  classifiedReady : f.getLsbD 0 = true → d.ready = true
  entryReserved : f.extractLsb' 12 4 = 0

/-- `ArenaLayout` of the tables it looks at. -/
structure SlotLayout (index arenaPtr : Nat) (rx : List RxDesc) (caps : List Nat) : Prop where
  count : caps.length = index
  total : caps.sum = arenaPtr
  start : ∀ i, i < index → (rx.getD i RxDesc.zero).ptr.toNat = (caps.take i).sum
  fits : ∀ i, i < index → (rx.getD i RxDesc.zero).len.toNat ≤ caps.getD i 0
  whole : ∀ i, i < index → (rx.getD i RxDesc.zero).en = true → (rx.getD i RxDesc.zero).len.toNat = caps.getD i 0

/-- What holds of the RX ring and the failure table. -/
structure RxRingOk (cfg : Build) (index arenaPtr : Nat) (rx : List RxDesc) (ft : List Half) : Prop where
  rxLength : rx.length = cfg.maxRx
  ftLength : ft.length = cfg.maxRx
  indexLe : index ≤ cfg.maxRx
  arenaPtrLe : arenaPtr ≤ cfg.arenaSize
  unreserved : ∀ i, index ≤ i → rx.getD i RxDesc.zero = RxDesc.zero ∧ ft.getD i 0 = 0
  layout : ∃ caps, SlotLayout index arenaPtr rx caps
  slots : ∀ i, RxSlotOk cfg (rx.getD i RxDesc.zero) (ft.getD i 0)

/-- What holds of a cookie context (spec/41_send.md rule R196, spec/45_context.md rule R292, spec/42_reply.md rule
R216). -/
structure CtxOk (cfg : Build) (k : Ctx) : Prop where
  destKey : k.hdr.destKey = 0
  headerCrc : k.hdr.headerCrc = 0
  txdesc : k.txdesc < cfg.maxTx
  rxdescIndex : k.rxdescIndex < cfg.maxRx

/-- What holds of the context file. -/
structure CtxFileOk (cfg : Build) (ctx : List Ctx) : Prop where
  length : ctx.length = cfg.nCookies
  entries : ∀ c, CtxOk cfg (ctx.getD c Ctx.zero)

/-- `RunInv` by its parts. -/
structure InvParts (s : State) : Prop where
  config : s.cfg.ok = true
  portLength : s.portReg.length = s.cfg.nPorts
  port : s.regs.port = 0xFF ∨ s.regs.port.toNat < s.cfg.nPorts
  tx : TxRingOk s.cfg s.regs.txIndex s.tx
  rx : RxRingOk s.cfg s.regs.rxIndex s.regs.arenaPtr s.rx s.ft
  ctx : CtxFileOk s.cfg s.ctx
  arenaForm : s.arena.wf = true
  arenaExtent : s.arena.below s.cfg.arenaSize = true
  hostForm : s.hostMem.wf = true
  hostExtent : s.hostMem.below (2 ^ 32) = true
  sequencer : SequencerOk s

theorem RunInv.parts {s : State} (h : RunInv s) : InvParts s := by
  obtain ⟨htx, hrx, hctx⟩ := (State.pointersInRange_iff h.config).1 h.pointers
  obtain ⟨caps, hl⟩ := h.layout
  exact
    { h with
      tx := ⟨h.txLength, h.txIndex, fun t => ⟨h.txReserved t, h.enabledNoError t, (htx t).1, (htx t).2⟩⟩
      rx :=
        { h with
          indexLe := h.rxIndex
          arenaPtrLe := h.arenaPtr
          layout := ⟨caps, hl.count, hl.total, hl.start, hl.fits, hl.whole⟩
          slots := fun i => ⟨h.rxReserved i, hrx i, h.classifiedReady i, h.entryReserved i⟩ }
      ctx := ⟨h.ctxLength, fun c => ⟨(h.keyAndCrc c).1, (h.keyAndCrc c).2, (hctx c).1, (hctx c).2⟩⟩ }

theorem InvParts.runInv {s : State} (h : InvParts s) : RunInv s := by
  obtain ⟨caps, hl⟩ := h.rx.layout
  exact
    { h with
      txLength := h.tx.length
      rxLength := h.rx.rxLength
      ftLength := h.rx.ftLength
      ctxLength := h.ctx.length
      txIndex := h.tx.indexLe
      rxIndex := h.rx.indexLe
      arenaPtr := h.rx.arenaPtrLe
      unreserved := h.rx.unreserved
      layout := ⟨caps, hl.count, hl.total, hl.start, hl.fits, hl.whole⟩
      classifiedReady := fun i => (h.rx.slots i).classifiedReady
      entryReserved := fun i => (h.rx.slots i).entryReserved
      txReserved := fun t => (h.tx.slots t).reserved
      rxReserved := fun i => (h.rx.slots i).reserved
      enabledNoError := fun t => (h.tx.slots t).noError
      keyAndCrc := fun c => ⟨(h.ctx.entries c).destKey, (h.ctx.entries c).headerCrc⟩
      pointers := (State.pointersInRange_iff h.config).2
        ⟨fun t => ⟨(h.tx.slots t).handle, (h.tx.slots t).named⟩, fun i => (h.rx.slots i).window,
          fun c => ⟨(h.ctx.entries c).txdesc, (h.ctx.entries c).rxdescIndex⟩⟩ }

/-- What holds of every entry of a table and of a new one holds of every entry once the new one is stored. -/
theorem forall_getD_set {α : Type} {p : α → Prop} {l : List α} {z v : α} (h : ∀ j, p (l.getD j z)) (hv : p v) (i : Nat) :
    ∀ j, p ((l.set i v).getD j z) := by
  intro j
  rw [getD_set]
  split
  · exact hv
  · exact h j

/-! ## The TX ring -/

section Tx

variable {cfg : Build} {index : Nat} {tx : List TxDesc} {d : TxDesc}

theorem TxDescOk.zero (cfg : Build) : TxDescOk cfg TxDesc.zero :=
  ⟨rfl, fun _ => rfl, Nat.zero_le _, fun h => absurd h (by decide)⟩

theorem TxDescOk.sent (h : TxDescOk cfg d) : TxDescOk cfg d.sent where
  reserved := by simp [TxDesc.sent, BitVec.extractLsb'_and, h.reserved]
  noError he := by rw [TxDesc.en_sent] at he; cases he
  handle := h.handle
  named he := by rw [TxDesc.en_sent] at he; cases he

theorem TxDescOk.failed (h : TxDescOk cfg d) : TxDescOk cfg d.failed where
  reserved := by simp [TxDesc.failed, BitVec.extractLsb'_and, BitVec.extractLsb'_or, h.reserved]
  noError he := by rw [TxDesc.en_failed] at he; cases he
  handle := h.handle
  named he := by rw [TxDesc.en_failed] at he; cases he

theorem headerPointer_toNat {c : Nat} (h : c ≤ 255) : (headerPointer c).toNat = c + 1 := by
  rw [headerPointer, BitVec.toNat_ofNat]
  omega

theorem programmedTx_ctrl (c : Nat) (write : Bool) (ptr datalen : Word) :
    (programmedTx c write ptr datalen).ctrl = if write then txCtrlWrite else txCtrlRead := by
  cases write <;> rfl

theorem programmedTx_hptr (c : Nat) (write : Bool) (ptr datalen : Word) :
    (programmedTx c write ptr datalen).hptr = headerPointer c := by
  cases write <;> rfl

/-- A programmed descriptor names its cookie (rules R195, R197). -/
theorem TxDescOk.programmed (hok : cfg.ok = true) {c : Nat} (hc : c < cfg.nCookies) (write : Bool) (ptr datalen : Word) :
    TxDescOk cfg (programmedTx c write ptr datalen) := by
  have hb := Build.ok_bounds hok
  have hptr := headerPointer_toNat (c := c) (by omega)
  exact
    { reserved := by rw [programmedTx_ctrl]; cases write <;> decide
      noError := fun _ => by rw [TxDesc.le, programmedTx_ctrl]; cases write <;> decide
      handle := by rw [programmedTx_hptr, hptr]; exact hc
      named := fun _ => by rw [programmedTx_hptr, hptr]; exact Nat.le_add_left .. }

theorem TxRingOk.set (h : TxRingOk cfg index tx) (hd : TxDescOk cfg d) {index' : Nat} (hi : index' ≤ cfg.maxTx) (t : Nat) :
    TxRingOk cfg index' (tx.set t d) :=
  ⟨by rw [List.length_set, h.length], hi, forall_getD_set h.slots hd t⟩

theorem TxRingOk.cleared (cfg : Build) : TxRingOk cfg 0 (List.replicate cfg.maxTx TxDesc.zero) :=
  ⟨List.length_replicate, Nat.zero_le _, fun t => by rw [getD_replicate]; exact .zero cfg⟩

end Tx

/-! ## The RX ring and the failure table -/

section Rx

variable {cfg : Build} {index arenaPtr : Nat} {rx : List RxDesc} {ft : List Half}

theorem RxSlotOk.zero (cfg : Build) : RxSlotOk cfg RxDesc.zero 0 :=
  ⟨rfl, Nat.zero_le _, fun h => absurd h (by decide), rfl⟩

theorem RxDesc.received_reserved {d : RxDesc} (h : d.ctrl.extractLsb' 3 29 = 0) (n : Nat) (trunc eep : Bool) :
    (d.received n trunc eep).ctrl.extractLsb' 3 29 = 0 := by
  cases trunc <;> cases eep <;> simp [RxDesc.received, BitVec.extractLsb'_and, BitVec.extractLsb'_or, h]

theorem RxRingOk.cleared (cfg : Build) :
    RxRingOk cfg 0 0 (List.replicate cfg.maxRx RxDesc.zero) (List.replicate cfg.maxRx 0) where
  rxLength := List.length_replicate
  ftLength := List.length_replicate
  indexLe := Nat.zero_le _
  arenaPtrLe := Nat.zero_le _
  unreserved i _ := ⟨getD_replicate .., getD_replicate ..⟩
  layout := ⟨[], rfl, rfl, fun i hi => absurd hi (Nat.not_lt_zero i), fun i hi => absurd hi (Nat.not_lt_zero i),
    fun i hi => absurd hi (Nat.not_lt_zero i)⟩
  slots i := by rw [getD_replicate, getD_replicate]; exact .zero cfg

/-- The failure table may be rewritten where slots are ready, with the reserved bits 0. -/
theorem RxRingOk.classified (h : RxRingOk cfg index arenaPtr rx ft) {ft' : List Half} (hl : ft'.length = ft.length)
    (he : ∀ j, ft'.getD j 0 = ft.getD j 0 ∨
      ((rx.getD j RxDesc.zero).ready = true ∧ (ft'.getD j 0).extractLsb' 12 4 = 0)) :
    RxRingOk cfg index arenaPtr rx ft' :=
  { h with
    ftLength := hl.trans h.ftLength
    unreserved := fun i hi => by
      obtain ⟨hd, hf⟩ := h.unreserved i hi
      refine ⟨hd, (he i).elim (fun heq => heq.trans hf) fun hready => ?_⟩
      rw [hd] at hready
      exact absurd hready.1 (by decide)
    slots := fun i => by
      have hi := h.slots i
      rcases he i with heq | ⟨hready, hres⟩
      · exact heq ▸ hi
      · exact ⟨hi.reserved, hi.window, fun _ => hready, hres⟩ }

/-- The layout with one slot more, at the end. -/
theorem SlotLayout.append {caps : List Nat} (h : SlotLayout index arenaPtr rx caps) (hi : index < rx.length) {d : RxDesc}
    (hptr : d.ptr.toNat = arenaPtr) : SlotLayout (index + 1) (arenaPtr + d.len.toNat) (rx.set index d)
      (caps ++ [d.len.toNat]) := by
  obtain ⟨hcount, htotal, hstart, hfits, hwhole⟩ := h
  have hnew : (rx.set index d).getD index RxDesc.zero = d := by rw [getD_set, if_pos ⟨rfl, hi⟩]
  have hold : ∀ i, i < index → (rx.set index d).getD i RxDesc.zero = rx.getD i RxDesc.zero := fun i hlt => by
    rw [getD_set, if_neg fun hc => absurd hc.1 hlt.ne]
  have hcap : ∀ i, i < index → (caps ++ [d.len.toNat]).getD i 0 = caps.getD i 0 := fun i hlt =>
    List.getD_append _ _ _ _ (hcount ▸ hlt)
  have hcapNew : (caps ++ [d.len.toNat]).getD index 0 = d.len.toNat := by
    rw [List.getD_append_right _ _ _ _ hcount.le, hcount, Nat.sub_self]
    rfl
  refine ⟨by simp [hcount], by simp [htotal], fun i hlt => ?_, fun i hlt => ?_, fun i hlt hen => ?_⟩ <;>
    rcases Nat.lt_succ_iff_lt_or_eq.1 hlt with hlt | rfl
  · rw [hold i hlt, hstart i hlt, List.take_append_of_le_length (by omega)]
  · rw [hnew, hptr, ← htotal, List.take_append_of_le_length hcount.ge, List.take_of_length_le hcount.le]
  · rw [hold i hlt, hcap i hlt]; exact hfits i hlt
  · rw [hnew, hcapNew]
  · rw [hold i hlt] at hen ⊢; rw [hcap i hlt]; exact hwhole i hlt hen
  · rw [hnew, hcapNew]

/-- A reserved slot inside the arena names its place and its size exactly. -/
theorem reservedRx_toNat (hok : cfg.ok = true) {size : Nat} (hs : arenaPtr + size ≤ cfg.arenaSize) :
    (reservedRx arenaPtr size).ptr.toNat = arenaPtr ∧ (reservedRx arenaPtr size).len.toNat = size := by
  have hb := Build.ok_bounds hok
  rw [reservedRx, BitVec.toNat_ofNat, BitVec.toNat_ofNat, Nat.mod_eq_of_lt (by omega), Nat.mod_eq_of_lt (by omega)]
  exact ⟨rfl, rfl⟩

/-- A reservation takes the next slot and the next bytes of the arena (rules R192 to R194, R199). -/
theorem RxRingOk.reserve (h : RxRingOk cfg index arenaPtr rx ft) (hok : cfg.ok = true) (hi : index < cfg.maxRx) {size : Nat}
    (hs : arenaPtr + size ≤ cfg.arenaSize) :
    RxRingOk cfg (index + 1) (arenaPtr + size) (rx.set index (reservedRx arenaPtr size)) ft := by
  obtain ⟨hptr, hlen⟩ := reservedRx_toNat hok hs
  obtain ⟨caps, hl⟩ := h.layout
  have hl' := hl.append (by rw [h.rxLength]; exact hi) hptr
  rw [hlen] at hl'
  exact
    { h with
      rxLength := by rw [List.length_set, h.rxLength]
      indexLe := hi
      arenaPtrLe := hs
      unreserved := fun i hle => by
        rw [getD_set, if_neg (by omega)]
        exact h.unreserved i (by omega)
      layout := ⟨_, hl'⟩
      slots := fun i => by
        rw [getD_set]
        split
        · next hc =>
          rw [hc.1, (h.unreserved index le_rfl).2]
          exact ⟨show rxCtrlReserved.extractLsb' 3 29 = 0 by decide, by rw [hptr, hlen]; exact hs,
            fun hf => absurd hf (by decide), rfl⟩
        · exact h.slots i }

/-- Only reserved slots are enabled. -/
theorem RxRingOk.lt_index_of_en (h : RxRingOk cfg index arenaPtr rx ft) {i : Nat} (he : (rx.getD i RxDesc.zero).en = true) :
    i < index := by
  by_contra hi
  rw [(h.unreserved i (by omega)).1] at he
  exact absurd he (by decide)

/-- A reception completes an enabled slot with at most its capacity (rules R336 to R338). -/
theorem RxRingOk.received (h : RxRingOk cfg index arenaPtr rx ft) {i n : Nat} (he : (rx.getD i RxDesc.zero).en = true)
    (hn : n ≤ (rx.getD i RxDesc.zero).len.toNat) (trunc eep : Bool) :
    RxRingOk cfg index arenaPtr (rx.set i ((rx.getD i RxDesc.zero).received n trunc eep)) ft := by
  have hi := h.lt_index_of_en he
  have hlen : (BitVec.ofNat 32 n).toNat = n := by
    rw [BitVec.toNat_ofNat, Nat.mod_eq_of_lt (lt_of_le_of_lt hn (BitVec.isLt _))]
  have hslot := h.slots i
  have hfree : ∀ f : Half, RxSlotOk cfg (rx.getD i RxDesc.zero) f → f.getLsbD 0 ≠ true := fun f hf hc => by
    have := (RxDesc.ready_iff.1 (hf.classifiedReady hc)).1
    rw [he] at this
    cases this
  obtain ⟨caps, hl⟩ := h.layout
  have hget : ∀ j, (rx.set i ((rx.getD i RxDesc.zero).received n trunc eep)).getD j RxDesc.zero =
      if j = i then (rx.getD i RxDesc.zero).received n trunc eep else rx.getD j RxDesc.zero := fun j => by
    rw [getD_set]
    simp only [h.rxLength, show i < cfg.maxRx from lt_of_lt_of_le hi h.indexLe, and_true]
  refine { h with rxLength := by rw [List.length_set, h.rxLength], unreserved := ?_, layout := ⟨caps, ?_⟩, slots := ?_ }
  · intro j hj
    rw [hget, if_neg (by omega)]
    exact h.unreserved j hj
  · refine { hl with start := fun j hj => ?_, fits := fun j hj => ?_, whole := fun j hj hen => ?_ } <;>
      rw [hget] at * <;> split <;> rename_i hji
    · rw [hji]; exact hl.start i hi
    · exact hl.start j hj
    · rw [hji, RxDesc.received, hlen]; exact hn.trans (hl.fits i hi)
    · exact hl.fits j hj
    · rw [if_pos hji, RxDesc.en_received] at hen; cases hen
    · rw [if_neg hji] at hen; exact hl.whole j hj hen
  · intro j
    rw [hget]
    split
    · next hji =>
      subst hji
      exact
        { reserved := RxDesc.received_reserved hslot.reserved n trunc eep
          window := by
            rw [RxDesc.received, hlen]
            exact (Nat.add_le_add_left hn _).trans hslot.window
          classifiedReady := fun hc => absurd hc (hfree _ hslot)
          entryReserved := hslot.entryReserved }
    · exact h.slots j

end Rx

/-! ## The context file -/

section Contexts

variable {cfg : Build} {ctx : List Ctx} {k : Ctx}

theorem CtxOk.of_zeroHeader (hok : cfg.ok = true) (hh : k.hdr = Header.zero) (ht : k.txdesc = 0) (hr : k.rxdescIndex = 0) :
    CtxOk cfg k := by
  have hb := Build.ok_bounds hok
  exact ⟨by rw [hh]; rfl, by rw [hh]; rfl, by omega, by omega⟩

/-- A send keeps bytes 3 and 15 of the header and remembers two slots of the rings (rules R196, R198). -/
theorem CtxOk.afterSend (h : CtxOk cfg k) {s : State} {t : Nat} (ht : t < cfg.maxTx) (hr : s.regs.rxIndex < cfg.maxRx)
    (ins : Byte) (datalen : Word) : CtxOk cfg (k.afterSend s ins datalen t) :=
  ⟨h.destKey, h.headerCrc, ht, hr⟩

theorem CtxFileOk.set (h : CtxFileOk cfg ctx) (hk : CtxOk cfg k) (c : Nat) : CtxFileOk cfg (ctx.set c k) :=
  ⟨by rw [List.length_set, h.length], forall_getD_set h.entries hk c⟩

/-- What the commands on an open cookie write of its context (rules R293, R295, R297). -/
theorem CtxFileOk.retarget (h : CtxFileOk cfg ctx) (c : Nat) (valid : Bool) (addr maxlen : Word) :
    CtxFileOk cfg (ctx.set c { ctx.getD c Ctx.zero with valid, addr, maxlen }) :=
  have hk := h.entries c
  h.set (k := { ctx.getD c Ctx.zero with valid, addr, maxlen })
    ⟨hk.destKey, hk.headerCrc, hk.txdesc, hk.rxdescIndex⟩ c

end Contexts

/-! ## Power-on -/

theorem invParts_powerOn {cfg : Build} {u : Unspecified} (hok : cfg.ok = true) (hu : UnspecifiedOk cfg u) :
    InvParts (State.powerOn cfg u) :=
  { hu with
    config := hok
    port := .inl rfl
    tx := .cleared cfg
    rx := .cleared cfg
    ctx := ⟨List.length_replicate, fun c => by rw [State.powerOn, getD_replicate]; exact .of_zeroHeader hok rfl rfl rfl⟩
    sequencer := trivial }

/-! ## The commands -/

variable {crc : List Byte → Byte} {s t : State}

theorem sequencerOk_of_idle (h : s.seq = .idle) : SequencerOk s := by
  rw [SequencerOk, h]
  trivial

/-- A blocking command's state is that of an open cookie and of a start in the past. -/
theorem sequencerOk_of_blocking {c start timeout : Nat} (h : s.seq = .blocking c start timeout) :
    SequencerOk s ↔ s.cookieValid c = true ∧ start ≤ s.env.timer := by
  rw [SequencerOk, h]

/-- The slot an accepted send takes is in the ring, and so is the index after it (rule R188). -/
theorem SendAccepts.slot_lt {c : Nat} {instruction : Byte} {datalen : Word} {k : Nat}
    (h : SendAccepts c instruction datalen k s) : k < s.cfg.maxTx := by
  rcases h.txSlot with ⟨hlt, rfl⟩ | ⟨-, h64, rfl⟩
  · exact hlt
  · rw [h64]; decide

/-- The slot an accepted send reserves fits in a packet and in what is left of the arena (rules R184, R185, R192). -/
theorem SendAccepts.size_le {c : Nat} {instruction : Byte} {datalen : Word} {k : Nat} (hok : s.cfg.ok = true)
    (h : SendAccepts c instruction datalen k s) :
    slotSize (isWrite (instruction ||| (s.ctxAt c).mask)) datalen ≤ s.cfg.maxPacketLen ∧
      slotSize (isWrite (instruction ||| (s.ctxAt c).mask)) datalen ≤ s.cfg.arenaSize - s.regs.arenaPtr := by
  have hb := Build.ok_bounds hok
  have hlen := h.length
  have hroom := h.headroom
  have hle : slotSize (isWrite (instruction ||| (s.ctxAt c).mask)) datalen ≤ s.cfg.maxPacketLen := by
    unfold slotSize isWrite wrReplyLen rdReplyHdrLen
    split at hlen <;> rename_i hw
    · rw [if_pos hw]; omega
    · rw [if_neg hw]; omega
  exact ⟨hle, by omega⟩

/-- The commit of an accepted send. -/
theorem InvParts.commitSend (h : InvParts s) {c : Nat} {instruction : Byte} {datalen : Word} {k : Nat}
    (ha : SendAccepts c instruction datalen k s) (ptr : Word) (hseq : s.seq = .idle) :
    InvParts (commitSend c (instruction ||| (s.ctxAt c).mask) ptr datalen k s) := by
  have hc := (s.cookieValid_iff c).1 ha.cookie
  have hroom := (ha.size_le h.config).2
  have hptr := h.rx.arenaPtrLe
  exact
    { h with
      tx := h.tx.set (.programmed h.config hc.1 _ ptr datalen) ha.slot_lt k
      rx := h.rx.reserve h.config ha.rxSlot (by omega)
      ctx := h.ctx.set ((h.ctx.entries c).afterSend ha.slot_lt ha.rxSlot _ datalen) c
      sequencer := sequencerOk_of_idle hseq }

/-- The classification of a slot writes a verdict where the slot is ready, or nothing. -/
theorem entryAfter_cases (crc : List Byte → Byte) (s : State) (j : Nat) : entryAfter crc s j = s.ftAt j ∨
    ((s.rxAt j).ready = true ∧ (entryAfter crc s j).extractLsb' 12 4 = 0) := by
  unfold entryAfter
  split_ifs with hclassified hready
  · exact .inl rfl
  · refine .inr ⟨hready, BitVec.eq_of_getLsbD_eq fun k hk => ?_⟩
    rw [BitVec.getLsbD_extractLsb', verdict_reserved _ _ _ _ (by omega)]
    simp
  · exact .inl rfl

/-- A search for a reply. -/
theorem InvParts.getReplyBody (h : InvParts s) (c : Nat) : InvParts (getReplyBody crc c s).1 := by
  obtain ⟨ft, events, ptr, len, hbody, hlen, hft, -⟩ := getReplyBody_frame (crc := crc) c s
  rw [hbody]
  exact
    { h with
      rx := h.rx.classified hlen fun j => (hft j).elim .inl fun he => he ▸ entryAfter_cases crc s j
      sequencer := h.sequencer }

theorem getReplyBody_seq (c : Nat) (s : State) : (Machine.getReplyBody crc c s).1.seq = s.seq := by
  obtain ⟨ft, events, ptr, len, hbody, -⟩ := getReplyBody_frame (crc := crc) c s
  rw [hbody]

/-- What a channel reset leaves, with other events, another environment, another binding of the port. -/
theorem InvParts.cleared (h : InvParts s) : InvParts (cleared s) :=
  { h with tx := .cleared s.cfg, rx := .cleared s.cfg, sequencer := h.sequencer }

theorem portByte_toNat {port : Int} (h0 : 0 ≤ port) (h : port ≤ 127) : (BitVec.ofInt 8 port).toNat = port.toNat := by
  rw [BitVec.toNat_ofInt]
  omega

/-- An accepted send leaves its cookie open. -/
theorem cookieValid_commitSend {c : Nat} (hc : s.cookieValid c = true) (ins : Byte) (ptr datalen : Word) (k : Nat) :
    (Machine.commitSend c ins ptr datalen k s).cookieValid c = true := by
  have hopen := (s.cookieValid_iff c).1 hc
  refine (State.cookieValid_iff _ c).2 ⟨hopen.1, ?_⟩
  rw [commitSend_ctxAt, if_pos ⟨rfl, State.lt_length_of_cookieValid hc⟩]
  exact hopen.2

/-- Every command keeps the invariant; the sequencer is idle when it starts. -/
theorem Effect.invParts {i : Instr} (he : Effect crc i s t) (h : InvParts s) (hseq : s.seq = .idle) : InvParts t := by
  cases he with
  | raised | noSlot | drew | addressGot => exact { h with sequencer := sequencerOk_of_idle hseq }
  | sent c instruction ptr k _ _ ha =>
    exact { h.commitSend ha ptr hseq with sequencer := sequencerOk_of_idle hseq }
  | blocks c instruction ptr k e _ _ ha =>
    exact { h.commitSend ha ptr hseq with sequencer := ⟨cookieValid_commitSend ha.cookie _ ptr _ k, le_rfl⟩ }
  | looked c => exact { h.getReplyBody c with sequencer := sequencerOk_of_idle ((getReplyBody_seq c s).trans hseq) }
  | reset => exact { h.cleared with sequencer := sequencerOk_of_idle hseq }
  | unbound => exact { h.cleared with port := .inl rfl, sequencer := sequencerOk_of_idle hseq }
  | bound port dest src es e _ h0 hlt =>
    have hb := Build.ok_bounds h.config
    have hport : (BitVec.ofInt 8 port).toNat < s.cfg.nPorts := by
      rw [portByte_toNat h0 (by omega)]
      omega
    exact
      { h.cleared with
        port := .inr hport
        portLength := by rw [List.length_set]; exact h.portLength
        sequencer := sequencerOk_of_idle hseq }
  | opened c =>
    exact { h with
      ctx := h.ctx.set (.of_zeroHeader h.config rfl rfl rfl) c, sequencer := sequencerOk_of_idle hseq }
  | reopened c | closed c | addressSet c =>
    exact { h with ctx := h.ctx.retarget c _ _ _, sequencer := sequencerOk_of_idle hseq }

/-! ## Polls -/

/-- A poll keeps the invariant: the search keeps the cookie open, and the timer does not run backwards. -/
theorem poll_invParts {c start timeout : Nat} (h : InvParts s) (hseq : s.seq = .blocking c start timeout)
    (hp : poll crc c start timeout s = .next t) : InvParts t := by
  have hbody := h.getReplyBody (crc := crc) c
  obtain ⟨hcookie, hstart⟩ := (sequencerOk_of_blocking ((getReplyBody_seq c s).trans hseq)).1 hbody.sequencer
  obtain ⟨-, ⟨-, rfl⟩ | ⟨-, e, hread, ⟨-, rfl⟩ | ⟨-, rfl⟩⟩⟩ := poll_next hp
  · exact { hbody with sequencer := trivial }
  · exact { hbody with sequencer := trivial }
  · exact { hbody with
      sequencer := (sequencerOk_of_blocking (s := (getReplyBody crc c s).1.setEnv e)
        ((getReplyBody_seq c s).trans hseq)).2 ⟨hcookie, hstart.trans hread.timer⟩ }

/-! ## What no command does (spec/10_state.md section 7) -/

/-- The parameters, the operands, the memories, the wire and the waiting inputs are as before, and no event is taken
away. -/
structure LeavesAlone (s t : State) : Prop where
  cfg : t.cfg = s.cfg
  args : t.args = s.args
  arena : t.arena = s.arena
  hostMem : t.hostMem = s.hostMem
  wire : t.wire = s.wire
  events : ∃ es, t.events = s.events ++ es
  agenda : t.env.agenda = s.env.agenda

theorem getReplyBody_leavesAlone (crc : List Byte → Byte) (c : Nat) (s : State) :
    LeavesAlone s (getReplyBody crc c s).1 := by
  obtain ⟨ft, events, ptr, len, hbody, -, -, hevents⟩ := getReplyBody_frame (crc := crc) c s
  rw [hbody]
  exact ⟨rfl, rfl, rfl, rfl, rfl, hevents.elim (fun h => ⟨[], by simp [h]⟩) fun h => ⟨_, h⟩, rfl⟩

theorem Effect.leavesAlone {i : Instr} (he : Effect crc i s t) : LeavesAlone s t := by
  have hnone : ∃ es, s.events = s.events ++ es := ⟨[], (List.append_nil _).symm⟩
  cases he with
  | raised | sent | opened | closed | addressSet | addressGot => exact ⟨rfl, rfl, rfl, rfl, rfl, hnone, rfl⟩
  | noSlot => exact ⟨rfl, rfl, rfl, rfl, rfl, ⟨_, rfl⟩, rfl⟩
  | blocks c instruction ptr k e _ _ _ ha => exact ⟨rfl, rfl, rfl, rfl, rfl, hnone, ha⟩
  | looked c => exact { getReplyBody_leavesAlone crc c s with }
  | reset es e code _ _ ha => exact ⟨rfl, rfl, rfl, rfl, rfl, ⟨es, rfl⟩, ha⟩
  | unbound es e _ _ ha => exact ⟨rfl, rfl, rfl, rfl, rfl, ⟨es, rfl⟩, ha⟩
  | bound port dest src es e _ _ _ _ ha => exact ⟨rfl, rfl, rfl, rfl, rfl, ⟨es, rfl⟩, ha⟩
  | drew e code ha => exact ⟨rfl, rfl, rfl, rfl, rfl, hnone, ha⟩
  | reopened c e _ _ ha => exact ⟨rfl, rfl, rfl, rfl, rfl, hnone, ha⟩

/-- A poll takes no waiting input and changes no parameter. -/
theorem poll_leaves {c start timeout : Nat} (hp : poll crc c start timeout s = .next t) :
    t.cfg = s.cfg ∧ t.env.agenda = s.env.agenda := by
  have hbody := getReplyBody_leavesAlone crc c s
  obtain ⟨-, ⟨-, rfl⟩ | ⟨-, e, hread, ⟨-, rfl⟩ | ⟨-, rfl⟩⟩⟩ := poll_next hp
  · exact ⟨hbody.cfg, hbody.agenda⟩
  · exact ⟨hbody.cfg, hread.agenda.trans hbody.agenda⟩
  · exact ⟨hbody.cfg, hread.agenda.trans hbody.agenda⟩

/-! ## Every step -/

/-- The agenda is no part of the invariant. -/
theorem InvParts.withAgenda (h : InvParts s) (rest : List Input) : InvParts (s.withAgenda rest) := { h with }

/-- A step keeps the invariant and the parameters, with any checksum and whatever runs the commands, as long as these
have the effects of commands. -/
theorem advance_keeps {run : Runner} (hrun : ∀ i rest t, run i (s.withAgenda rest) = .next t →
      Effect crc i (s.withAgenda rest) t) (h : InvParts s) (ha : advance crc run s = .next t) :
    InvParts t ∧ t.cfg = s.cfg := by
  rcases advance_next ha with ⟨rest, w, i, hidle, -, -, hexec⟩ | ⟨rest, w, -, -, rfl⟩ |
    ⟨rest, offset, v, -, -, args, rfl⟩ | ⟨rest, offset, -, -, v, events, rfl⟩ | ⟨rest, a, b, -, rfl⟩ |
    ⟨rest, k, -, -, -, rfl⟩ | ⟨rest, k, -, -, rfl⟩ | ⟨rest, k, pkt, eep, -, hen, -, rfl⟩ | ⟨rest, -, rfl⟩ |
    ⟨rest, c, start, timeout, hseq, hpoll⟩
  · have heffect := hrun i rest t hexec
    exact ⟨heffect.invParts (h.withAgenda rest) hidle, heffect.leavesAlone.cfg⟩
  · exact ⟨{ h with }, rfl⟩
  · exact ⟨{ h with }, rfl⟩
  · exact ⟨{ h with }, rfl⟩
  · exact ⟨{ h with hostForm := Mem.write_wf h.hostForm, hostExtent := Mem.below_write a.isLt h.hostExtent }, rfl⟩
  · exact ⟨{ h with tx := h.tx.set (h.tx.slots k).sent h.tx.indexLe k }, rfl⟩
  · exact ⟨{ h with tx := h.tx.set (h.tx.slots k).failed h.tx.indexLe k }, rfl⟩
  · have hlen : (pkt.take (s.rxAt k).len.toNat).length ≤ (s.rxAt k).len.toNat := List.length_take_le ..
    have hwindow := (h.rx.slots k).window
    exact
      ⟨{ h with
        rx := h.rx.received (rxEnabled_iff.1 hen).2 hlen _ eep
        arenaForm := Mem.writeBytes_wf h.arenaForm
        arenaExtent := Mem.below_writeBytes ((Nat.add_le_add_left hlen _).trans hwindow) h.arenaExtent }, rfl⟩
  · exact ⟨h.withAgenda rest, rfl⟩
  · exact ⟨poll_invParts (h.withAgenda rest) hseq hpoll, (poll_leaves hpoll).1⟩

theorem step_keeps (h : InvParts s) (hs : step s = .next t) : InvParts t ∧ t.cfg = s.cfg :=
  advance_keeps (fun _ _ _ hexec => exec_effect hexec) h (step_next hs).2

/-! ## Runs -/

/-- A run that goes on has made its first step. -/
theorem core_run_succ_next {M : Host.Core} {k : Nat} {s t : M.State} (h : M.run (k + 1) s = .next t) :
    ∃ u, M.step s = .next u ∧ M.run k u = .next t := by
  rw [Host.Core.run] at h
  split at h
  · next u hu => exact ⟨u, hu, h⟩
  · cases h
  · cases h

/-- The induction over a run, once: every state it reaches has the invariant and the parameters it began with. -/
theorem run_invParts : ∀ (k : Nat) {s t : State}, InvParts s → Host.Core.run core k s = .next t →
    InvParts t ∧ t.cfg = s.cfg
  | 0, s, t, h, hrun => by
    injection hrun with hrun
    exact hrun ▸ ⟨h, rfl⟩
  | k + 1, s, t, h, hrun => by
    obtain ⟨u, hstep, hrest⟩ := core_run_succ_next (M := core) hrun
    obtain ⟨hu, hucfg⟩ := step_keeps h hstep
    obtain ⟨ht, htcfg⟩ := run_invParts k hu hrest
    exact ⟨ht, htcfg.trans hucfg⟩

/-! ## The layout, slot by slot (rule R57 (c), (d)) -/

theorem map_getD_range (l : List Nat) : (List.range l.length).map (fun i => l.getD i 0) = l :=
  List.ext_getElem (by simp) fun i _ h => by simp [h]

section Layout

variable {index arenaPtr : Nat} {rx : List RxDesc} {caps : List Nat} (h : SlotLayout index arenaPtr rx caps)
include h

/-- A slot ends where the slots up to it end. -/
theorem SlotLayout.ptr_add_cap {i : Nat} (hi : i < index) :
    (rx.getD i RxDesc.zero).ptr.toNat + caps.getD i 0 = (caps.take (i + 1)).sum := by
  have hlt : i < caps.length := h.count ▸ hi
  rw [h.start i hi, List.sum_take_succ _ _ hlt, List.getD_eq_getElem _ _ hlt]

theorem SlotLayout.end_le {i : Nat} (hi : i < index) :
    (rx.getD i RxDesc.zero).ptr.toNat + caps.getD i 0 ≤ arenaPtr := by
  rw [h.ptr_add_cap hi, ← h.total]
  exact (List.monotone_sum_take caps (show i + 1 ≤ caps.length from h.count ▸ hi)).trans
    (congrArg List.sum List.take_length).le

/-- The slots ascend and do not overlap. -/
theorem SlotLayout.end_le_ptr {i j : Nat} (hij : i < j) (hj : j < index) :
    (rx.getD i RxDesc.zero).ptr.toNat + caps.getD i 0 ≤ (rx.getD j RxDesc.zero).ptr.toNat := by
  rw [h.ptr_add_cap (hij.trans hj), h.start j hj]
  exact List.monotone_sum_take caps hij

theorem SlotLayout.arenaPtr_eq : arenaPtr = ((List.range index).map fun i => caps.getD i 0).sum := by
  rw [← h.count, map_getD_range, h.total]

end Layout

/-- Bits of a field that is 0 are clear. -/
theorem getLsbD_of_extractLsb'_eq_zero {w start len k : Nat} {x : BitVec w} (h : x.extractLsb' start len = 0)
    (hw : w ≤ start + len) (hk : start ≤ k) : x.getLsbD k = false := by
  by_cases hlt : k < w
  · have hbit := congrArg (·.getLsbD (k - start)) h
    simpa [BitVec.getLsbD_extractLsb', Nat.add_sub_cancel' hk, show k - start < len by omega] using hbit
  · exact BitVec.getLsbD_of_ge _ _ (not_lt.1 hlt)

/-! ## Under the invariant no step is stopped -/

section Completes

variable (crc) (s)

theorem blockingSend_completes (c : Nat) (write : Bool) (ptr datalen timeout : Word) :
    ∃ t, blockingSend c write ptr datalen timeout s = .next t := by
  simp only [blockingSend]
  split
  · exact ⟨_, rfl⟩
  · exact ⟨_, rfl⟩

variable {s} (hp : s.pointersInRange = true)
include hp

theorem guardPointers_complete (r : State × Code) : ∃ t, guardPointers s (complete r) = .next t :=
  ⟨_, guardPointers_true hp _⟩

theorem getReply_completes (c : Nat) : ∃ t, getReply crc c s = .next t := by
  unfold getReply
  split
  · exact ⟨_, rfl⟩
  · exact guardPointers_complete hp _

theorem getDirected_completes (write : Bool) (c : Nat) : ∃ t, getDirected crc write c s = .next t := by
  unfold getDirected
  split_ifs
  · exact ⟨_, rfl⟩
  · exact ⟨_, rfl⟩
  · exact getReply_completes crc hp c

theorem setPortBody_completes (port : Int) (dest src : Byte) : ∃ t, setPortBody crc port dest src s = .next t := by
  unfold setPortBody
  split
  · exact ⟨_, rfl⟩
  · exact guardPointers_complete hp _

theorem poll_completes (c start timeout : Nat) : ∃ t, poll crc c start timeout s = .next t := by
  rw [poll, guardPointers_true hp, pollBody]
  split
  · dsimp only
    split
    · exact ⟨_, rfl⟩
    · exact ⟨_, rfl⟩
  · exact ⟨_, rfl⟩

/-- Every command ends with a next state. -/
theorem command_completes (i : Instr) : ∃ t, command crc i s = .next t := by
  cases i with
  | reset => exact guardPointers_complete hp _
  | isActive | sendCommand | openCookie | reOpen | close | setAddress | getAddress => exact ⟨_, rfl⟩
  | setPort port | setPortAddr port => exact setPortBody_completes crc hp port _ _
  | getReply c => exact getReply_completes crc hp c
  | getWriteReply c | getReadReply c => exact getDirected_completes crc hp _ c
  | sendCommandBlocking c => exact blockingSend_completes s c _ _ _ _
  | sendWrite | sendRead =>
    simp only [command, execSendWrite, execSendRead]
    split_ifs <;> exact ⟨_, rfl⟩
  | writeBlocking c =>
    simp only [command, execWriteBlocking]
    split_ifs
    · exact ⟨_, rfl⟩
    · exact ⟨_, rfl⟩
    · exact blockingSend_completes s c _ _ _ _
  | readBlocking c =>
    simp only [command, execReadBlocking]
    split_ifs
    · exact ⟨_, rfl⟩
    · exact blockingSend_completes s c _ _ _ _
  | resetViaCookie c =>
    simp only [command, cookieReset]
    split_ifs
    · exact ⟨_, rfl⟩
    · exact guardPointers_complete hp _

end Completes

/-- The next input is a DMA step that does not exist: the descriptor is not enabled, or no port is bound (rule R331). -/
def AgentStepDisabled (s : State) : Prop :=
  ∃ rest,
    (∃ t, s.env.agenda = .dmaTx t :: rest ∧ ¬(s.regs.port ≠ 0xFF ∧ (s.txAt t).en = true)) ∨
    (∃ t, s.env.agenda = .dmaTxErr t :: rest ∧ ¬(s.regs.port ≠ 0xFF ∧ (s.txAt t).en = true)) ∨
    (∃ i pkt eep, s.env.agenda = .dmaRx i pkt eep :: rest ∧ ¬(s.regs.port ≠ 0xFF ∧ (s.rxAt i).en = true))

/-- A step goes on, or is the refusal of a DMA step that does not exist. -/
theorem advance_completes {run : Runner} (hrun : ∀ i rest, ∃ t, run i (s.withAgenda rest) = .next t)
    (hp : s.pointersInRange = true) :
    (∃ t, advance crc run s = .next t) ∨ (advance crc run s = .refused .dmaNotEnabled ∧ AgentStepDisabled s) := by
  have hturn : ∀ rest, ∃ t, sequencerTurn crc (s.withAgenda rest) = .next t := fun rest => by
    unfold sequencerTurn
    split
    · exact ⟨_, rfl⟩
    · exact poll_completes crc (s := s.withAgenda rest) hp _ _ _
  unfold advance
  cases ha : s.env.agenda with
  | nil => exact .inl (hturn s.env.agenda)
  | cons a rest =>
    cases a with
    | poll => exact .inl (hturn rest)
    | hostMem a b => exact .inl ⟨_, rfl⟩
    | write offset v =>
      dsimp only
      refine .inl ?_
      split
      · unfold hostWrite runWord
        split
        · split
          · exact hrun _ rest
          · exact ⟨_, rfl⟩
        · exact ⟨_, rfl⟩
        · exact ⟨_, rfl⟩
      · exact hturn s.env.agenda
    | read offset =>
      dsimp only
      refine .inl ?_
      split
      · exact ⟨_, rfl⟩
      · exact hturn s.env.agenda
    | dmaTx k =>
      by_cases he : s.regs.port ≠ 0xFF ∧ (s.txAt k).en = true
      · exact .inl ⟨_, dmaTx_next.2 ⟨txEnabled_iff.2 he, hp, rfl⟩⟩
      · exact .inr ⟨if_neg fun hc => he (txEnabled_iff.1 hc), rest, .inl ⟨k, ha, he⟩⟩
    | dmaTxErr k =>
      by_cases he : s.regs.port ≠ 0xFF ∧ (s.txAt k).en = true
      · exact .inl ⟨_, dmaTxErr_next.2 ⟨txEnabled_iff.2 he, rfl⟩⟩
      · exact .inr ⟨if_neg fun hc => he (txEnabled_iff.1 hc), rest, .inr (.inl ⟨k, ha, he⟩)⟩
    | dmaRx k pkt eep =>
      by_cases he : s.regs.port ≠ 0xFF ∧ (s.rxAt k).en = true
      · exact .inl ⟨_, dmaRx_next.2 ⟨rxEnabled_iff.2 he, hp, rfl⟩⟩
      · exact .inr ⟨if_neg fun hc => he (rxEnabled_iff.1 hc), rest, .inr (.inr ⟨k, pkt, eep, ha, he⟩)⟩

/-! ## The machine of a `Config` -/

/-- A step does not look at what runs the commands but for the command it runs. -/
theorem advance_congr {run run' : Runner} (h : ∀ i rest, run i (s.withAgenda rest) = run' i (s.withAgenda rest)) :
    advance crc run s = advance crc run' s := by
  have hword : ∀ w rest, runWord run w (s.withAgenda rest) = runWord run' w (s.withAgenda rest) := fun w rest => by
    rw [runWord, runWord]
    split
    · exact h _ rest
    · rfl
  have hwrite : ∀ offset v rest,
      hostWrite run offset v (s.withAgenda rest) = hostWrite run' offset v (s.withAgenda rest) := fun offset v rest => by
    rw [hostWrite, hostWrite, hword]
  cases ha : s.env.agenda with
  | nil => rw [advance, advance, ha]
  | cons a rest =>
    cases a with
    | write offset v => simp only [advance, ha, hwrite]
    | _ => rw [advance, advance, ha]

/-- The parameters of a `Config` in range make an accepted `Build` with the default checksum. -/
theorem standardBuild_ok {cfg : Config} (h : cfg.ok = true) : ({ cfg with crc := .standard } : Build).ok = true :=
  decide_eq_true ⟨of_decide_eq_true h, rfl⟩

/-- In a state with its parameters the machine of a `Config` takes the step with its checksum. -/
theorem stepOf_eq_advance {cfg : Config} (hok : cfg.ok = true) (h : s.cfg.toParams = cfg.toParams) :
    stepOf cfg s = advance cfg.crc8 (command cfg.crc8) s := by
  rw [stepOf, if_pos hok, State.withParams_of_eq h]

end Lemmas

/-! ## The statements -/

/-- Settles O11, part by part. -/
theorem invAtPowerOn : Obligations.InvAtPowerOn :=
  fun _ _ hok hu => (invParts_powerOn hok hu).runInv

/-- Settles O12: the invariant by its parts, each kept by whatever a step can write. -/
theorem stepKeepsInv : Obligations.StepKeepsInv :=
  fun _ _ h hstep => (step_keeps h.parts hstep).1.runInv

/-- Settles O13: the run keeps the invariant, whose layout gives the capacities. -/
theorem runsMeetRule57 : Obligations.RunsMeetRule57 := by
  intro cfg u k t hok hu hrun
  obtain ⟨h, hcfg⟩ := run_invParts k (invParts_powerOn hok hu) hrun
  obtain rfl : t.cfg = cfg := hcfg
  obtain ⟨caps, hl⟩ := h.rx.layout
  refine ⟨⟨h.tx.indexLe, h.rx.indexLe, h.rx.arenaPtrLe⟩, h.rx.unreserved, ⟨fun i => caps.getD i 0, fun i hi =>
      ⟨(hl.end_le hi).trans h.rx.arenaPtrLe, hl.fits i hi, hl.whole i hi, fun j => hl.end_le_ptr⟩, hl.arenaPtr_eq⟩,
    fun i hf => RxDesc.ready_iff.1 ((h.rx.slots i).classifiedReady hf), fun i k => ⟨fun hk => ?_, fun hk => ?_,
      fun hk => ?_⟩⟩
  · exact getLsbD_of_extractLsb'_eq_zero (h.rx.slots i).entryReserved (by decide) hk
  · exact getLsbD_of_extractLsb'_eq_zero (h.rx.slots i).reserved (by decide) hk
  · exact getLsbD_of_extractLsb'_eq_zero (h.tx.slots i).reserved (by decide) hk

/-- Settles O14: with the pointers in range every command, poll and port access completes. -/
theorem invStepsComplete : Obligations.InvStepsComplete := by
  intro s h
  rw [step_of_ok h.config]
  refine advance_completes (fun i rest => ?_) h.pointers
  rw [exec_eq_command]
  exact command_completes _ (s := s.withAgenda rest) h.pointers i

/-- Settles O15: the lemmas on `advance` hold of any checksum and of whatever runs the commands. -/
theorem everyConfigIsAMachine : Obligations.EveryConfigIsAMachine := by
  intro cfg hok
  refine ⟨fun u hu => ⟨(invParts_powerOn (standardBuild_ok hok) hu).runInv, rfl⟩,
    fun s h hparams => ⟨?_, fun hcrc => ?_⟩⟩
  · rw [stepOf_eq_advance hok hparams]
    have hrun : ∀ i rest t, command cfg.crc8 i (s.withAgenda rest) = .next t →
        Effect cfg.crc8 i (s.withAgenda rest) t := fun _ _ _ hcommand => command_effect hcommand
    refine (advance_completes (fun i rest => command_completes _ (s := s.withAgenda rest) h.pointers i)
      h.pointers).imp_left fun ⟨t, ht⟩ => ?_
    obtain ⟨hinv, hcfg⟩ := advance_keeps hrun h.parts ht
    exact ⟨t, ht, hinv.runInv, hcfg⟩
  · have hexec : ∀ i rest, exec i (s.withAgenda rest) = command cfg.crc8 i (s.withAgenda rest) := fun i rest => by
      rw [exec_eq_command, State.withAgenda_cfg, hcrc]
    rw [step_of_ok h.config, stepOf_eq_advance hok hparams, hcrc, advance_congr hexec]
    exact ⟨rfl, fun i => hexec i s.env.agenda⟩

/-- Settles O16, by the effects a command can have. -/
theorem commandsLeaveAlone : Obligations.CommandsLeaveAlone := by
  intro i s t hexec
  have h := (exec_effect hexec).leavesAlone
  exact ⟨h.cfg, h.args, fun a => by rw [h.arena], h.arena, fun a => by rw [h.hostMem], h.hostMem, h.wire, h.events,
    h.agenda⟩

end Sys2Proof.Machine

/-! The checksums (spec/43_validator.md section 4): the laws of rule R261 for the default, for a table and for whatever an
accepted configuration names, and what the laws say of the two checks. The lemmas come first, then the statements they
settle. -/

namespace Sys2Proof.Machine

open Sys2Proof

section Lemmas

variable {crc : List Byte → Byte} {entries p q : List Byte}

/-! ## The default checksum (rule R262) -/

/-- Over one byte two registers stay different: the checksum of a byte is linear and vanishes at 0 only. -/
theorem crc8Step_left_inj {a b x : Byte} (h : crc8Step a x = crc8Step b x) : a = b := by
  have hxor : crc8Step (a ^^^ b) (x ^^^ x) = 0 := by rw [crc8Step_xor, h, BitVec.xor_self]; rfl
  rw [BitVec.xor_self] at hxor
  exact BitVec.xor_eq_zero_iff.1 (crc8Step_eq_zero hxor)

theorem crc8Step_right_inj {a x y : Byte} (h : crc8Step a x = crc8Step a y) : x = y := by
  have hxor : crc8Step (a ^^^ a) (x ^^^ y) = 0 := by rw [crc8Step_xor, h, BitVec.xor_self]; rfl
  rw [BitVec.xor_self] at hxor
  exact BitVec.xor_eq_zero_iff.1 (crc8Step_eq_zero hxor).symm

theorem crcLaws_standard : CrcLaws crc8Standard :=
  CrcLaws.of_foldl crc8Step_self (fun _ _ _ => crc8Step_left_inj) (fun _ _ _ => crc8Step_right_inj)

/-! ## The checksum of a table (log 3) -/

/-- A table of 256 entries in which none occurs twice tells two bytes apart. -/
theorem getD_toNat_inj (hlen : entries.length = 256) (hnodup : entries.Nodup) {x y : Byte}
    (h : entries.getD x.toNat 0 = entries.getD y.toNat 0) : x = y := by
  have hx : x.toNat < entries.length := hlen ▸ x.isLt
  have hy : y.toNat < entries.length := hlen ▸ y.isLt
  rw [List.getD_eq_getElem _ _ hx, List.getD_eq_getElem _ _ hy] at h
  exact BitVec.eq_of_toNat_eq ((hnodup.getElem_inj_iff).1 h)

/-- An accepted table has the laws. -/
theorem crcLaws_table (hlen : entries.length = 256) (h0 : entries.getD 0 0 = 0) (hnodup : entries.Nodup) :
    CrcLaws (crc8Table entries) := by
  refine CrcLaws.of_foldl (fun c => ?_) (fun a b x h => ?_) (fun a x y h => ?_)
  · rw [BitVec.xor_self]; exact h0
  · exact (BitVec.xor_left_inj x).1 (getD_toNat_inj hlen hnodup h)
  · exact (BitVec.xor_right_inj a).1 (getD_toNat_inj hlen hnodup h)

/-- By the residue law, of the empty packet. -/
theorem table_zero_of_crcLaws (h : CrcLaws (crc8Table entries)) : entries.getD 0 0 = 0 := by
  have hzero : crc8Table entries [0] = 0 := h.residue []
  exact hzero

/-- A table whose checksum has the laws tells two bytes apart: a write reply that begins with one of them, closed by its
CRC, would otherwise still pass with the other. -/
theorem table_inj_of_crcLaws (h : CrcLaws (crc8Table entries)) {x y : Byte}
    (hxy : entries.getD x.toNat 0 = entries.getD y.toNat 0) : x = y := by
  by_contra hne
  have hsame : ∀ m, crc8Table entries (x :: m) = crc8Table entries (y :: m) := fun m => by
    have hzero : ∀ b : Byte, 0 ^^^ b = b := fun b => BitVec.zero_xor
    simp only [crc8Table, List.foldl_cons, hzero, hxy]
  have hpass := h.residue (x :: List.replicate 6 0)
  refine h.writeReply _ _ ⟨0, y, ?_, ?_, rfl⟩ ?_ hpass ((hsame _).symm.trans hpass)
  · exact Nat.zero_lt_succ _
  · exact hne
  · rfl

theorem table_nodup_of_crcLaws (hlen : entries.length = 256) (h : CrcLaws (crc8Table entries)) : entries.Nodup := by
  refine List.nodup_iff_injective_get.2 fun i j hij => ?_
  have hbyte : ∀ k : Fin entries.length, (BitVec.ofNat 8 k).toNat = k := fun k => by
    rw [BitVec.toNat_ofNat, Nat.mod_eq_of_lt (by omega)]
  have hget : ∀ k : Fin entries.length, entries.getD (BitVec.ofNat 8 k).toNat 0 = entries.get k := fun k => by
    rw [hbyte, List.getD_eq_getElem _ _ k.isLt]
    rfl
  have hbytes := table_inj_of_crcLaws h ((hget i).trans (hij.trans (hget j).symm))
  exact Fin.ext (by rw [← hbyte i, hbytes, hbyte j])

/-! ## The checksum a configuration names -/

theorem crcLaws_checksumFunction : ∀ k : Checksum, CrcLaws (checksumFunction k)
  | .rmap => crcLaws_standard
  | .function _ laws => laws

theorem crc8_of_standard {cfg : Build} (h : cfg.crc = .standard) : crc8 cfg = crc8Standard := by rw [crc8, h]

theorem crc8_of_table {cfg : Build} (h : cfg.crc = .table entries) : crc8 cfg = crc8Table entries := by rw [crc8, h]

theorem table_ok_iff : (Crc8Choice.table entries).ok = true ↔
    entries.length = 256 ∧ entries.getD 0 0 = 0 ∧ entries.Nodup := decide_eq_true_iff

theorem Build.ok_iff {cfg : Build} : cfg.ok = true ↔ cfg.toParams.InRange ∧ cfg.crc.ok = true := decide_eq_true_iff

/-- An accepted configuration names a checksum with the laws (spec/00_scope.md rule R8 (d)). -/
theorem crcLaws_of_ok {cfg : Build} (hok : cfg.ok = true) : CrcLaws (crc8 cfg) := by
  obtain ⟨-, hcrc⟩ := Build.ok_iff.1 hok
  cases h : cfg.crc with
  | standard => exact crc8_of_standard h ▸ crcLaws_standard
  | table entries =>
    rw [h, table_ok_iff] at hcrc
    obtain ⟨hlen, h0, hnodup⟩ := hcrc
    exact crc8_of_table h ▸ crcLaws_table hlen h0 hnodup
  | platform id =>
    have hid : crc8 cfg = checksumFunction (Config.platformCrc8 id) := by rw [crc8, h]
    exact hid ▸ crcLaws_checksumFunction _

/-! ## The two checks (rules R258, R259) -/

theorem checkCrc_writeReply_iff (h : p.length = 8) : checkCrc crc p .writeReply = true ↔ crc p = 0 := by
  rw [checkCrc, wrReplyLen, List.take_of_length_le h.le, beq_iff_eq]

theorem checkCrc_readReply_iff : checkCrc crc p .readReply = true ↔ crc (p.take 12) = 0 ∧ crc p = 0 := by
  rw [checkCrc, rdReplyHdrLen, Bool.and_eq_true, beq_iff_eq, beq_iff_eq]

theorem length_of_oneByteChanged (h : OneByteChanged p q) : q.length = p.length := by
  obtain ⟨k, v, -, -, rfl⟩ := h
  exact List.length_set

end Lemmas

/-! ## The statements -/

/-- Settles O36: the laws of the default checksum, law (c) read off the two checks. -/
theorem defaultCrcDetectsOneByte : Obligations.DefaultCrcDetectsOneByte := by
  intro cfg p q hcrc hchanged
  rw [crc8_of_standard hcrc]
  refine ⟨fun hlen hp => ?_, fun hlen hp => ?_⟩
  · rw [checkCrc_writeReply_iff hlen] at hp
    rw [← Bool.not_eq_true, checkCrc_writeReply_iff ((length_of_oneByteChanged hchanged).trans hlen)]
    exact crcLaws_standard.writeReply p q hchanged hlen hp
  · rw [checkCrc_readReply_iff] at hp
    rw [← Bool.not_eq_true, checkCrc_readReply_iff]
    exact crcLaws_standard.readReply p q hchanged hlen hp.1 hp.2

/-- Settles O37: the residue law closes each part, and the chaining law passes over the header of a read reply. -/
theorem packetsWithTheirCrcPass : Obligations.PacketsWithTheirCrcPass := by
  intro crc h d laws
  refine ⟨fun hlen => ?_, fun hlen => ?_⟩
  · rw [checkCrc_writeReply_iff (by simp [hlen])]
    exact laws.residue h
  · have hheader : (h ++ [crc h] ++ d ++ [crc d]).take 12 = h ++ [crc h] := by
      rw [List.append_assoc]
      exact List.take_left' (by simp [hlen])
    rw [checkCrc_readReply_iff, hheader, List.append_assoc, laws.chaining _ _ (laws.residue h)]
    exact ⟨laws.residue h, laws.residue d⟩

/-- Settles O38, by what the configuration names; for a table the laws give the two conditions back. -/
theorem acceptedChecksumsHaveTheLaws : Obligations.AcceptedChecksumsHaveTheLaws := by
  intro cfg
  refine ⟨crcLaws_of_ok, fun entries hcrc hlen laws => ?_⟩
  rw [crc8_of_table hcrc] at laws
  rw [hcrc, table_ok_iff]
  exact ⟨hlen, table_zero_of_crcLaws laws, table_nodup_of_crcLaws hlen laws⟩

end Sys2Proof.Machine

/-! The step and the command port (spec/10_state.md rules R32, R44; spec/20_memory.md rule R76; spec/44_blocking.md rule
R281): what a step is for each kind of input, what the registers read and store. The lemmas come first, then the
statements they settle. -/

namespace Sys2Proof.Machine

open Sys2Proof

section Lemmas

variable {s : State} {rest : List Input}

/-! ## The step, by the next input -/

theorem step_of_not_ok (h : ¬s.cfg.ok = true) : step s = .refused .configOutOfRange := if_neg h

/-- With a blocking command running a register access waits, and the step is a poll (log 13). -/
theorem step_access_of_blocking {c start timeout : Nat} {offset v : Word} (hok : s.cfg.ok = true)
    (hs : s.seq = .blocking c start timeout)
    (ha : s.env.agenda = .write offset v :: rest ∨ s.env.agenda = .read offset :: rest) :
    step s = poll (crc8 s.cfg) c start timeout s := by
  rw [step_of_ok hok, advance]
  rcases ha with ha | ha <;> simp only [ha, portFree_of_blocking hs, sequencerTurn, hs] <;> rfl

theorem step_write {offset v : Word} (hok : s.cfg.ok = true) (hs : s.seq = .idle)
    (ha : s.env.agenda = .write offset v :: rest) : step s = hostWrite exec offset v (s.withAgenda rest) := by
  rw [step_of_ok hok, advance_write hs ha]

theorem step_hostMem {a : Word} {b : Byte} (hok : s.cfg.ok = true) (ha : s.env.agenda = .hostMem a b :: rest) :
    step s = .next (hostMemWrite a b (s.withAgenda rest)) := by
  rw [step_of_ok hok, advance, ha]

/-- A DMA step that is not enabled is refused (log 14). -/
theorem dmaTx_of_disabled {crc : List Byte → Byte} {k : Nat} (h : txEnabled s k = false) :
    dmaTx crc k s = .refused .dmaNotEnabled := by
  rw [dmaTx, h]
  rfl

theorem dmaTxErr_of_disabled {k : Nat} (h : txEnabled s k = false) : dmaTxErr k s = .refused .dmaNotEnabled := by
  rw [dmaTxErr, h]
  rfl

theorem dmaRx_of_disabled {k : Nat} {pkt : List Byte} {eep : Bool} (h : rxEnabled s k = false) :
    dmaRx k pkt eep s = .refused .dmaNotEnabled := by
  rw [dmaRx, h]
  rfl

theorem txEnabled_eq_false {k : Nat} : txEnabled s k = false ↔ s.regs.port = 0xFF ∨ (s.txAt k).en = false := by
  rw [← Bool.not_eq_true, txEnabled_iff, not_and_or, not_not, Bool.not_eq_true]

theorem rxEnabled_eq_false {k : Nat} : rxEnabled s k = false ↔ s.regs.port = 0xFF ∨ (s.rxAt k).en = false := by
  rw [← Bool.not_eq_true, rxEnabled_iff, not_and_or, not_not, Bool.not_eq_true]

/-! ## The register map (rule R32) -/

/-- The byte offset of a register. -/
def HostReg.offset : HostReg → Word
  | .cmd => 0x00
  | .argPtr => 0x04
  | .argLen => 0x08
  | .argTimeout => 0x0C
  | .argAddr => 0x10
  | .argMisc => 0x14
  | .argMaxlen => 0x18
  | .result => 0x20
  | .replyPtr => 0x24
  | .replyLen => 0x28
  | .retVal => 0x2C
  | .eventPop => 0x30
  | .eventCount => 0x34
  | .port => 0x40
  | .txIndex => 0x44
  | .rxIndex => 0x48
  | .arenaPtr => 0x4C
  | .tidNext => 0x50
  | .addrs => 0x54
  | .hkPort => 0x58

theorem hostRegAt_offset (reg : HostReg) : hostRegAt reg.offset = some reg := by cases reg <;> rfl

/-- The register at an offset has that offset. -/
theorem offset_of_hostRegAt {offset : Word} {reg : HostReg} (h : hostRegAt offset = some reg) : offset = reg.offset := by
  unfold hostRegAt at h
  split at h
  case h_21 => cases h
  all_goals
    cases h
    exact BitVec.eq_of_toNat_eq ‹_›

/-- An offset that is no register's has none. -/
theorem hostRegAt_eq_none {offset : Word} (h : ∀ reg : HostReg, offset ≠ reg.offset) : hostRegAt offset = none := by
  cases hr : hostRegAt offset with
  | none => rfl
  | some reg => exact absurd (offset_of_hostRegAt hr) (h reg)

/-- A read of a register gives its value and, but for `EVENT_POP`, changes nothing else (rule R76). -/
theorem hostRead_offset {reg : HostReg} {v : Word} {t : State} (h : readReg s reg = (v, t)) :
    hostRead reg.offset s = t.setEnv { t.env with readData := v } := by
  simp only [hostRead, hostRegAt_offset, h]

theorem hostRead_of_none {offset : Word} (h : hostRegAt offset = none) :
    hostRead offset s = s.setEnv { s.env with readData := 0 } := by
  simp only [hostRead, h]

/-- A write of a register other than `CMD` stores it or is ignored. -/
theorem hostWrite_offset {run : Runner} {reg : HostReg} (h : reg ≠ .cmd) (v : Word) :
    hostWrite run reg.offset v s = .next (storeReg v s reg) := by
  rw [hostWrite, hostRegAt_offset]
  cases reg with
  | cmd => exact absurd rfl h
  | _ => rfl

theorem hostWrite_of_none {run : Runner} {offset : Word} (h : hostRegAt offset = none) (v : Word) :
    hostWrite run offset v s = .next s := by
  rw [hostWrite, h]

/-- The two address bytes as one word. -/
theorem addrs_eq (src dest : Byte) : (src ++ dest).setWidth 32 = BitVec.ofNat 32 (src.toNat * 256 + dest.toNat) := by
  apply BitVec.eq_of_toNat_eq
  rw [BitVec.toNat_setWidth, BitVec.toNat_append, BitVec.toNat_ofNat, Nat.shiftLeft_eq, Nat.mul_comm,
    ← Nat.two_pow_add_eq_or_of_lt dest.isLt]

end Lemmas

/-! ## The statements -/

/-- Settles O7: each constraint is one of those that acceptance gives back. -/
theorem badParametersAreRefused : Obligations.BadParametersAreRefused := by
  intro s hbad
  refine step_of_not_ok fun hok => ?_
  have hb := Build.ok_bounds hok
  rcases hbad with hbad | hbad | hbad | hbad | hbad
  · rw [hok] at hbad; cases hbad
  · omega
  · omega
  · omega
  · exact hbad (crcLaws_of_ok hok)

/-- Settles O5: the write of `CMD` runs its word, and the word is the command's. -/
theorem stepRunsTheCommand : Obligations.StepRunsTheCommand := by
  intro s w rest i hok hs ha hdecode
  rw [step_write_cmd hok hs ha, runWord, hdecode]

/-- Settles O8: the sequencer's turn of an idle controller. -/
theorem idleControllerWaits : Obligations.IdleControllerWaits := by
  intro s hok hs ha
  rw [step_of_ok hok, advance, ha]
  dsimp only
  rw [sequencerTurn, hs]

/-- Settles O9: the step is a poll, which takes nothing off the agenda. -/
theorem portWaitsWhileBlocking : Obligations.PortWaitsWhileBlocking := by
  intro s c start timeout offset v rest hok hs ha
  have hstep := step_access_of_blocking hok hs ha
  exact ⟨hstep, fun t ht => (poll_leaves (hstep.symm.trans ht)).2⟩

/-- Settles O53, input by input. -/
theorem dmaNeedsAnEnabledDescriptor : Obligations.DmaNeedsAnEnabledDescriptor := by
  rintro s k pkt eep rest hok (⟨ha | ha, hdisabled⟩ | ⟨ha, hdisabled⟩)
  · rw [step_dmaTx hok ha]
    exact dmaTx_of_disabled (txEnabled_eq_false.2 hdisabled)
  · rw [step_dmaTxErr hok ha]
    exact dmaTxErr_of_disabled (txEnabled_eq_false.2 hdisabled)
  · rw [step_dmaRx hok ha]
    exact dmaRx_of_disabled (rxEnabled_eq_false.2 hdisabled)

/-- Settles O55: each listed offset is a register's, whose reading is the value beside it; no register has another
offset. -/
theorem portReads : Obligations.PortReads := by
  intro s offset v rest hok hs ha hread
  rw [step_read hok hs ha]
  rw [← addrs_eq] at hread
  rcases hread with hlisted | ⟨rfl, hother⟩
  · generalize hp : (offset, v) = p at hlisted
    fin_cases hlisted <;> cases hp <;> rfl
  · rw [hostRead_of_none (hostRegAt_eq_none fun reg hreg => hother ?_)]
    · rfl
    · rw [hreg]
      cases reg <;> decide

/-- Settles O56: the free word depends on the draw counter, which a read does not move. -/
theorem cmdReadIsFree : Obligations.CmdReadIsFree := by
  intro s rest hok hs ha
  have hread : ∀ (t : State) (l : List Input), hostRead 0x00 (t.withAgenda l) =
      { t with env := { t.env with agenda := l, readData := Config.freeCmdReadback t.env.freeCount } } :=
    fun t l => hostRead_offset (reg := .cmd) rfl
  have hstep := (step_read hok hs ha).trans (congrArg _ (hread s rest))
  refine ⟨_, hstep, fun rest' hrest => ?_⟩
  have hstep' := (step_read (s := { s with env := { s.env with
    agenda := rest, readData := Config.freeCmdReadback s.env.freeCount } }) hok hs hrest).trans (congrArg _ (hread _ rest'))
  rw [core_run_succ (M := core) hstep, core_run_succ (M := core) hstep']
  rfl

/-- Settles O57: an operand register stores the word; every other register but `CMD` is read-only, and an offset that is
no register's is ignored. -/
theorem portWrites : Obligations.PortWrites := by
  intro s offset v args rest hok hs ha hwrite
  rw [step_write hok hs ha]
  rcases hwrite with hlisted | ⟨rfl, hother⟩
  · generalize hp : (offset, args) = p at hlisted
    fin_cases hlisted <;> cases hp <;> rfl
  · cases hreg : hostRegAt offset with
    | none => rw [hostWrite_of_none hreg]; rfl
    | some reg =>
      obtain rfl := offset_of_hostRegAt hreg
      cases reg with
      | cmd | argPtr | argLen | argTimeout | argAddr | argMisc | argMaxlen => exact absurd (by decide) hother
      | _ => rw [hostWrite_offset (by decide)]; rfl

/-- Settles O58: one byte written in canonical form. -/
theorem hostMemoryChanges : Obligations.HostMemoryChanges := by
  intro s a b rest hok hwf ha
  exact ⟨s.hostMem.write a.toNat b, Mem.write_wf hwf, Mem.read_write hwf a.toNat b, step_hostMem hok ha⟩

end Sys2Proof.Machine

/-! The commands, one by one (spec/41_send.md, spec/42_reply.md, spec/44_blocking.md, spec/45_context.md,
spec/46_facade.md): the sends of the facade and of the blocking commands as SEND_COMMAND, the get commands, the contexts.
The lemmas come first, then the statements they settle. -/

namespace Sys2Proof.Machine

open Sys2Proof

section Lemmas

variable {s : State} {c : Nat}

/-! ## What sends and resets alone write -/

/-- A search for a reply writes the failure table, the events and the results only. -/
theorem getReplyBody_keeps (crc : List Byte → Byte) (c : Nat) (s : State) :
    (getReplyBody crc c s).1.regs = s.regs ∧ (getReplyBody crc c s).1.tx = s.tx ∧ (getReplyBody crc c s).1.rx = s.rx ∧
      (getReplyBody crc c s).1.portReg = s.portReg := by
  obtain ⟨ft, events, ptr, len, hbody, -⟩ := getReplyBody_frame (crc := crc) c s
  rw [hbody]
  exact ⟨rfl, rfl, rfl, rfl⟩

theorem Effect.rings_of_neither {crc : List Byte → Byte} {i : Instr} {t : State} (he : Effect crc i s t)
    (hsends : sends i = false) (hresets : resetsChannel i = false) :
    t.regs = s.regs ∧ t.tx = s.tx ∧ t.rx = s.rx ∧ t.portReg = s.portReg := by
  cases he with
  | sent _ _ _ _ hs | blocks _ _ _ _ _ hs => rw [hs] at hsends; cases hsends
  | reset _ _ _ hr | unbound _ _ hr | bound _ _ _ _ _ hr => rw [hr] at hresets; cases hresets
  | looked c => exact getReplyBody_keeps crc c s
  | _ => exact ⟨rfl, rfl, rfl, rfl⟩

/-- No command both sends and resets. -/
theorem sends_eq_false_of_resets {i : Instr} (h : resetsChannel i = true) : sends i = false := by
  cases i with
  | reset | setPort | setPortAddr | resetViaCookie => rfl
  | _ => cases h

theorem Effect.ids_of_reset {crc : List Byte → Byte} {i : Instr} {t : State} (he : Effect crc i s t)
    (hresets : resetsChannel i = true) : t.regs.tidNext = s.regs.tidNext ∧ t.ctx = s.ctx := by
  have hsends := sends_eq_false_of_resets hresets
  cases he with
  | sent _ _ _ _ hs | blocks _ _ _ _ _ hs => rw [hs] at hsends; cases hsends
  | looked _ _ hr => rw [hr] at hresets; cases hresets
  | opened _ hi | reopened _ _ hi | closed _ hi | addressSet _ hi | addressGot _ hi => rw [hi] at hresets; cases hresets
  | _ => exact ⟨rfl, rfl⟩

/-! ## Sends of the facade and of the blocking commands (rules R284, R312 to R317) -/

theorem isNull_eq_false {ptr : Word} (h : ptr ≠ 0) : isNull ptr = false := beq_eq_false_iff_ne.2 h

/-- The cookie test of a facade's send is that of the send itself (rules R312, R314). -/
theorem ite_cookieValid_sendBody (instruction : Byte) (ptr datalen : Word) :
    (if !s.cookieValid c then complete (s, .commandNoChannel) else complete (sendBody c instruction ptr datalen s)) =
      complete (sendBody c instruction ptr datalen s) := by
  by_cases hc : c < s.cfg.nCookies ∧ (s.ctxAt c).valid = true
  · rw [(s.cookieValid_iff c).2 hc]
    rfl
  · rw [sendBody_of_not_cookieValid hc, ite_self]

/-- The cookie test of a blocking command is that of its send (rules R316, R317). -/
theorem ite_cookieValid_blockingSend (write : Bool) (ptr datalen timeout : Word) :
    (if !s.cookieValid c then complete (s, .commandNoChannel) else blockingSend c write ptr datalen timeout s) =
      blockingSend c write ptr datalen timeout s := by
  by_cases hc : c < s.cfg.nCookies ∧ (s.ctxAt c).valid = true
  · rw [(s.cookieValid_iff c).2 hc]
    rfl
  · rw [blockingSend_of_not_cookieValid hc, ite_self]

/-- Past the pointer test SEND_WRITE is the send of instruction 0x70. -/
theorem exec_sendWrite (hptr : s.args.ptr ≠ 0) :
    exec (.sendWrite c) s = complete (sendBody c 0x70 s.args.ptr s.args.len s) := by
  have hexec : exec (.sendWrite c) s = execSendWrite c s := rfl
  rw [hexec, execSendWrite, isNull_eq_false hptr]
  exact ite_cookieValid_sendBody 0x70 s.args.ptr s.args.len

/-- SEND_READ is the send of instruction 0x50 with a null pointer. -/
theorem exec_sendRead : exec (.sendRead c) s = complete (sendBody c 0x50 0 s.args.len s) :=
  ite_cookieValid_sendBody 0x50 0 s.args.len

/-- A send that is accepted answers the programmed state with `OK`. -/
theorem complete_sendBody_of_accepts {instruction : Byte} {ptr datalen : Word} {t : Nat}
    (h : SendAccepts c instruction datalen t s) :
    complete (sendBody c instruction ptr datalen s) =
      .next (ended (programmed s c (instruction ||| (s.ctxAt c).mask) ptr datalen t) 0x0000) := by
  rw [sendBody_of_accepts h, commitSend_eq_programmed]
  rfl

/-- A refused send does not answer `OK`. -/
theorem sendBody_code_of_refused {instruction : Byte} {datalen : Word} (ptr : Word)
    (h : ∀ t, ¬SendAccepts c instruction datalen t s) : (sendBody c instruction ptr datalen s).2 ≠ .ok := by
  intro hok
  obtain ⟨t, haccepts, -⟩ := sendBody_ok hok
  exact h t haccepts

/-- No check looks at the pointer, which is in the commit alone: a refused send has the outcome it has with any pointer
(rule R180). -/
theorem sendBody_ptr_of_refused {instruction : Byte} {datalen : Word} (ptr ptr' : Word)
    (h : ∀ t, ¬SendAccepts c instruction datalen t s) :
    sendBody c instruction ptr datalen s = sendBody c instruction ptr' datalen s := by
  have hcode := sendBody_code_of_refused ptr h
  simp only [sendBody] at hcode ⊢
  split_ifs at hcode ⊢
  all_goals try rfl
  split at hcode
  · rfl
  · split_ifs at hcode ⊢
    · rfl
    · exact absurd rfl hcode

/-- The three blocking commands: the direction, the instruction constant and the pointer of their send. -/
def BlockingForm (s : State) (c : Nat) (i : Instr) (instruction : Byte) (ptr : Word) : Prop :=
  (i = .sendCommandBlocking c ∧ instruction = (if s.args.ptr = 0 then 0x50 else 0x70) ∧ ptr = s.args.ptr) ∨
    (i = .writeBlocking c ∧ instruction = 0x70 ∧ ptr = s.args.ptr ∧ s.args.ptr ≠ 0) ∨
    (i = .readBlocking c ∧ instruction = 0x50 ∧ ptr = 0)

/-- A blocking command is one blocking send, in the direction its instruction constant gives (rules R284, R316, R317). -/
theorem exec_of_blockingForm {i : Instr} {instruction : Byte} {ptr : Word} (h : BlockingForm s c i instruction ptr) :
    ∃ write, directionInstr write = instruction ∧
      exec i s = blockingSend c write ptr s.args.len s.args.timeout s := by
  rcases h with ⟨rfl, rfl, rfl⟩ | ⟨rfl, rfl, rfl, hptr⟩ | ⟨rfl, rfl, rfl⟩
  · refine ⟨!isNull s.args.ptr, ?_, rfl⟩
    by_cases hptr : s.args.ptr = 0
    · rw [hptr]; rfl
    · rw [isNull_eq_false hptr, if_neg hptr]; rfl
  · refine ⟨true, rfl, ?_⟩
    have hexec : exec (.writeBlocking c) s = execWriteBlocking c s := rfl
    rw [hexec, execWriteBlocking, isNull_eq_false hptr]
    exact ite_cookieValid_blockingSend true s.args.ptr s.args.len s.args.timeout
  · exact ⟨false, rfl, ite_cookieValid_blockingSend false 0 s.args.len s.args.timeout⟩

/-- A blocking send that is refused ends with the refusal. -/
theorem blockingSend_of_refused {write : Bool} {ptr datalen timeout : Word}
    (h : ∀ t, ¬SendAccepts c (directionInstr write) datalen t s) :
    blockingSend c write ptr datalen timeout s = complete (sendBody c (directionInstr write) ptr datalen s) :=
  if_neg (sendBody_code_of_refused ptr h)

/-! ## The slot of an accepted send (rules R192 to R194) -/

/-- No slot is empty. -/
theorem slotSize_pos (write : Bool) (datalen : Word) : 0 < slotSize write datalen := by
  cases write
  · exact Nat.succ_pos _
  · exact Nat.succ_pos 7

/-- The slot an accepted send reserves, read back. -/
theorem commitSend_rxAt_rxIndex (ins : Byte) (ptr datalen : Word) (t : Nat) (h : s.regs.rxIndex < s.rx.length) :
    (commitSend c ins ptr datalen t s).rxAt s.regs.rxIndex =
      reservedRx s.regs.arenaPtr (slotSize (isWrite ins) datalen) := by
  rw [commitSend_rxAt, if_pos ⟨rfl, h⟩]

/-! ## Get commands, classifier, contexts -/

/-- A get command of the facade on a cookie of the other direction (rules R313, R315). -/
theorem getDirected_of_mismatch {crc : List Byte → Byte} {write : Bool} (hc : s.cookieValid c = true)
    (hd : (s.ctxAt c).hdr.instruction.getLsbD 5 ≠ write) : getDirected crc write c s = .next (ended s 0x010B) := by
  have hw : (isWrite (s.ctxAt c).instr != write) = true := bne_iff_ne.2 hd
  rw [getDirected, hc, hw]
  rfl

/-- A slot that is not ready keeps its entry (rule R242). -/
theorem classify_of_not_ready {crc : List Byte → Byte} {i : Nat} (h : (s.rxAt i).ready = false) :
    classify crc i s = s := by
  rw [classify, h]
  exact ite_self s

/-- The contexts of a file of the parameter's size are all looked at (rule R291). -/
theorem freeHandle_eq (hlen : s.ctx.length = s.cfg.nCookies) : freeHandle s = s.ctx.findIdx? fun k => !k.valid := by
  rw [freeHandle, ← hlen, List.take_length]

theorem State.ctxAt_eq_getElem {j : Nat} (h : j < s.ctx.length) : s.ctxAt j = s.ctx[j] :=
  List.getD_eq_getElem _ _ h

theorem freeHandle_eq_some (hlen : s.ctx.length = s.cfg.nCookies) (hc : c < s.cfg.nCookies)
    (hfree : (s.ctxAt c).valid = false) (hused : ∀ j, j < c → (s.ctxAt j).valid = true) : freeHandle s = some c := by
  rw [freeHandle_eq hlen, List.findIdx?_eq_some_iff_getElem]
  have hlt : c < s.ctx.length := hlen ▸ hc
  refine ⟨hlt, ?_, fun j hj => ?_⟩
  · rw [← State.ctxAt_eq_getElem hlt, hfree]; rfl
  · rw [← State.ctxAt_eq_getElem (hj.trans hlt), hused j hj]; decide

theorem freeHandle_eq_none (hlen : s.ctx.length = s.cfg.nCookies)
    (hused : ∀ j, j < s.cfg.nCookies → (s.ctxAt j).valid = true) : freeHandle s = none := by
  rw [freeHandle_eq hlen, List.findIdx?_eq_none_iff]
  intro k hk
  obtain ⟨j, hj, rfl⟩ := List.mem_iff_getElem.1 hk
  rw [← State.ctxAt_eq_getElem hj, hused j (hlen ▸ hj)]
  rfl

end Lemmas

/-! ## The statements -/

/-- Settles O18, effect by effect: only the effects of a send or a reset write rings and registers, and those of a
reset keep the ids and the contexts. -/
theorem ringsMoveOnlyBySendsAndResets : Obligations.RingsMoveOnlyBySendsAndResets := by
  intro i s t h
  have heffect := exec_effect h
  exact ⟨fun hsends hresets => heffect.rings_of_neither hsends hresets, fun hresets => heffect.ids_of_reset hresets⟩

/-- Settles O20. -/
theorem nullPointerIsRefused : Obligations.NullPointerIsRefused :=
  fun _ _ hi hptr => exec_of_null_pointer hi hptr

/-- Settles O23: both commands are a send, and an accepted send programs. -/
theorem facadeSendsProgram : Obligations.FacadeSendsProgram := by
  intro s c t
  exact ⟨fun hptr haccepts => (exec_sendWrite hptr).trans (complete_sendBody_of_accepts haccepts),
    fun haccepts => exec_sendRead.trans (complete_sendBody_of_accepts haccepts)⟩

/-- Settles O24: the command is a blocking send, which commits, reads the timer and waits. -/
theorem blockingCommandsSend : Obligations.BlockingCommandsSend := by
  intro s c t i instruction ptr hform haccepts
  obtain ⟨write, rfl, hexec⟩ := exec_of_blockingForm hform
  obtain ⟨e, hread, htimer, hblocking⟩ :=
    blockingSend_of_accepts (ptr := ptr) (timeout := s.args.timeout) haccepts
  refine ⟨e, hread, htimer, ?_⟩
  rw [hexec, hblocking, commitSend_eq_programmed]
  rfl

/-- Settles O25: the command is a blocking send, whose refusal is the send's, whatever the pointer. -/
theorem blockingRefusedAsSend : Obligations.BlockingRefusedAsSend := by
  intro s c i instruction hform hrefused
  obtain ⟨ptr, hform'⟩ : ∃ ptr, BlockingForm s c i instruction ptr := by
    rcases hform with ⟨hi, hins⟩ | ⟨hi, hins, hptr⟩ | ⟨hi, hins⟩
    · exact ⟨s.args.ptr, .inl ⟨hi, hins, rfl⟩⟩
    · exact ⟨s.args.ptr, .inr (.inl ⟨hi, hins, rfl, hptr⟩)⟩
    · exact ⟨0, .inr (.inr ⟨hi, hins, rfl⟩)⟩
  obtain ⟨write, rfl, hexec⟩ := exec_of_blockingForm hform'
  rw [hexec, blockingSend_of_refused hrefused, sendBody_ptr_of_refused ptr s.args.ptr hrefused]
  rfl

/-- Settles O26: both commands are a send, and a refused send does not look at the pointer. -/
theorem facadeSendRefusedAsSend : Obligations.FacadeSendRefusedAsSend := by
  intro s c
  refine ⟨fun hptr _ => exec_sendWrite hptr, fun hrefused => ?_⟩
  rw [exec_sendRead, sendBody_ptr_of_refused 0 s.args.ptr hrefused]
  rfl

/-- Settles O27: the headroom check leaves room for the slot, so that its pointer and length are exact. -/
theorem reservedSlotInsideArena : Obligations.ReservedSlotInsideArena := by
  intro s u c instruction t hok hrx haccepts hexec
  rw [exec_sendCommand_of_sendBody (sendBody_of_accepts haccepts)] at hexec
  injection hexec with hu
  have hins : slotSize (isWrite (instruction ||| (s.ctxAt c).mask)) s.args.len =
      if (instruction ||| (s.ctxAt c).mask).getLsbD 5 then 8 else 12 + s.args.len.toNat + 1 := rfl
  have hslot : u.rxAt s.regs.rxIndex = reservedRx s.regs.arenaPtr
      (slotSize (isWrite (instruction ||| (s.ctxAt c).mask)) s.args.len) := by
    rw [← hu]
    exact commitSend_rxAt_rxIndex _ s.args.ptr _ t (hrx ▸ haccepts.rxSlot)
  have hnext : u.regs.arenaPtr = s.regs.arenaPtr +
      slotSize (isWrite (instruction ||| (s.ctxAt c).mask)) s.args.len := by rw [← hu]; rfl
  have hpos := slotSize_pos (isWrite (instruction ||| (s.ctxAt c).mask)) s.args.len
  obtain ⟨hpacket, hroom⟩ := haccepts.size_le hok
  obtain ⟨hptr, hlen⟩ := reservedRx_toNat hok (arenaPtr := s.regs.arenaPtr)
    (size := slotSize (isWrite (instruction ||| (s.ctxAt c).mask)) s.args.len) (by omega)
  rw [hslot, hptr, hlen, hnext]
  exact ⟨hpacket, rfl, rfl, by omega, hins⟩

/-- Settles O32: the direction test comes before the search. -/
theorem directionMismatch : Obligations.DirectionMismatch := by
  intro s c hc hvalid
  have hopen := (s.cookieValid_iff c).2 ⟨hc, hvalid⟩
  exact ⟨fun hread => getDirected_of_mismatch (write := true) hopen (by rw [hread]; decide),
    fun hwrite => getDirected_of_mismatch (write := false) hopen (by rw [hwrite]; decide)⟩

/-- Settles O34: neither kind of slot is ready. -/
theorem notReadyIsNotClassified : Obligations.NotReadyIsNotClassified := by
  intro crc s i h
  refine classify_of_not_ready (Bool.eq_false_iff.2 fun hready => ?_)
  obtain ⟨hen, hzero⟩ := RxDesc.ready_iff.1 hready
  rcases h with h | h
  · rw [hen] at h; cases h
  · exact hzero h

/-- Settles O44: the first context that is not valid is the handle OPEN takes. -/
theorem openTakesTheLowest : Obligations.OpenTakesTheLowest := by
  intro s c hlen hc hfree hused
  have hexec : exec .openCookie s = complete (openBody s) := rfl
  rw [hexec, openBody, freeHandle_eq_some hlen hc hfree hused]
  rfl

/-- Settles O45. -/
theorem openWithoutAFreeContext : Obligations.OpenWithoutAFreeContext := by
  intro s hlen hused
  have hexec : exec .openCookie s = complete (openBody s) := rfl
  rw [hexec, openBody, freeHandle_eq_none hlen hused]
  rfl

/-- Settles O47: past the cookie test each command is one write. -/
theorem closeAndAddressCommands : Obligations.CloseAndAddressCommands := by
  intro s c hc hvalid
  have hopen : ¬(!s.cookieValid c) = true := by rw [(s.cookieValid_iff c).2 ⟨hc, hvalid⟩]; decide
  exact ⟨congrArg complete (if_neg hopen), congrArg complete (if_neg hopen), congrArg complete (if_neg hopen)⟩

end Sys2Proof.Machine

/-! GET_REPLY done again (spec/42_reply.md rule R224) and the polls of a blocking command (spec/44_blocking.md): a scan
finds what it found and classifies nothing anew; a poll is GET_REPLY and, where that leaves the reply outstanding, one
reading of the timer. The lemmas come first, then the statements they settle. -/

namespace Sys2Proof.Machine

open Sys2Proof

section Lemmas

variable {crc : List Byte → Byte} {s t : State} {c : Nat}

/-! ## Slots a visit leaves as they are -/

/-- A visit of the slot changes nothing: its entry is the one the visit would give, or the table has none for it. -/
def Settled (crc : List Byte → Byte) (s : State) (j : Nat) : Prop := j < s.ft.length → entryAfter crc s j = s.ftAt j

theorem State.ftAt_of_length_le {j : Nat} (h : s.ft.length ≤ j) : s.ftAt j = 0 := List.getD_eq_default _ _ h

theorem Settled.classify_eq {i : Nat} (h : Settled crc s i) : classify crc i s = s := by
  have hft : (classify crc i s).ft = s.ft := by
    refine list_ext_ftAt (classify_ft_length i s) fun j _ => ?_
    change (classify crc i s).ftAt j = s.ftAt j
    rw [classify_ftAt]
    split
    · next hj => rw [hj.1, h hj.2]
    · rfl
  rw [Machine.classify_eq, hft]

/-- A visit settles the slot. -/
theorem settled_classify (i : Nat) (s : State) : Settled crc (classify crc i s) i := by
  intro hi
  rw [classify_ft_length] at hi
  rw [entryAfter_classify, classify_ftAt, if_pos ⟨rfl, hi⟩]

theorem scanAlong_entryAfter (c : Nat) : ∀ (l : List Nat) (s : State) (j : Nat),
    entryAfter crc (scanAlong crc c l s).1 j = entryAfter crc s j
  | [], _, _ => rfl
  | i :: l, s, j => by
    rw [scanAlong]
    split
    · exact entryAfter_classify i s j
    · rw [scanAlong_entryAfter c l, entryAfter_classify]

/-- A scan keeps the entries of settled slots. -/
theorem Settled.scanAlong_ftAt {j : Nat} (h : Settled crc s j) (c : Nat) (l : List Nat) :
    (scanAlong crc c l s).1.ftAt j = s.ftAt j := by
  by_cases hj : j < s.ft.length
  · rcases scanAlong_ftAt_or c l s j with he | he
    · exact he
    · rw [he, h hj]
  · have hlen := scanAlong_ft_length (crc := crc) c l s
    rw [State.ftAt_of_length_le (by omega), State.ftAt_of_length_le (by omega)]

theorem Settled.scanAlong {j : Nat} (h : Settled crc s j) (c : Nat) (l : List Nat) :
    Settled crc (scanAlong crc c l s).1 j := by
  intro hj
  rw [scanAlong_ft_length] at hj
  rw [scanAlong_entryAfter, h.scanAlong_ftAt, h hj]

/-- `matches` depends on the slot's entry, its packet and the cookie. -/
theorem slotMatches_scanAlong {j : Nat} (h : Settled crc s j) (c : Nat) (l : List Nat) :
    slotMatches j c (scanAlong crc c l s).1 = slotMatches j c s := by
  have hft := h.scanAlong_ftAt c l
  have heq := scanAlong_eq (crc := crc) c l s
  generalize (Machine.scanAlong crc c l s).1 = u at hft heq ⊢
  rw [slotMatches, slotMatches, hft, heq]
  rfl

/-- A second scan along the same slots finds the same slot and changes nothing. -/
theorem scanAlong_again (c : Nat) : ∀ (l : List Nat) (s : State),
    scanAlong crc c l (scanAlong crc c l s).1 = scanAlong crc c l s
  | [], _ => rfl
  | i :: l, s => by
    have hi := settled_classify (crc := crc) i s
    by_cases hm : slotMatches i c (classify crc i s) = true
    · have hscan : scanAlong crc c (i :: l) s = (classify crc i s, some i) := if_pos hm
      rw [hscan, scanAlong, hi.classify_eq, if_pos hm]
    · have hscan : scanAlong crc c (i :: l) s = scanAlong crc c l (classify crc i s) := if_neg hm
      have hm' : ¬slotMatches i c (scanAlong crc c l (classify crc i s)).1 = true := by
        rwa [slotMatches_scanAlong hi]
      rw [hscan, scanAlong, (hi.scanAlong c l).classify_eq, if_neg hm', scanAlong_again c l]

/-! ## The results are nothing the search looks at -/

/-- The state with other result registers. -/
def State.withRes (s : State) (r : Results) : State := { s with res := r }

theorem classify_withRes (i : Nat) (s : State) (r : Results) :
    classify crc i (s.withRes r) = (classify crc i s).withRes r := by
  have hft : (classify crc i (s.withRes r)).ft = (classify crc i s).ft := by
    refine list_ext_ftAt (s := classify crc i s) ?_ fun j _ => ?_
    · rw [classify_ft_length, classify_ft_length]; rfl
    · change (classify crc i (s.withRes r)).ftAt j = (classify crc i s).ftAt j
      rw [classify_ftAt, classify_ftAt]
      rfl
  rw [classify_eq i (s.withRes r), classify_eq i s, hft]
  rfl

theorem scanAlong_withRes (c : Nat) (r : Results) : ∀ (l : List Nat) (s : State),
    scanAlong crc c l (s.withRes r) = ((scanAlong crc c l s).1.withRes r, (scanAlong crc c l s).2)
  | [], _ => rfl
  | i :: l, s => by
    have hm : slotMatches i c ((classify crc i s).withRes r) = slotMatches i c (classify crc i s) := rfl
    rw [scanAlong, scanAlong, classify_withRes, hm]
    split
    · rfl
    · exact scanAlong_withRes c r l _

/-- A second search, whatever results have been written in between, finds the same slot and changes nothing (rule
R224). -/
theorem findReply_again (c : Nat) (s : State) (r : Results) :
    findReply crc c ((findReply crc c s).1.withRes r) = ((findReply crc c s).1.withRes r, (findReply crc c s).2) := by
  have horder : scanOrder ((findReply crc c s).1.withRes r) c = scanOrder s c := by rw [findReply_frame]; rfl
  rw [findReply_eq_scanAlong, horder, findReply_eq_scanAlong, scanAlong_withRes, scanAlong_again]

/-! ## GET_REPLY again (rules R215, R224) -/

/-- GET_REPLY with the pointers in range, whatever the cookie, ends with what its body answers. -/
theorem exec_getReply (hp : s.pointersInRange = true) :
    exec (.getReply c) s = complete (getReplyBody (crc8 s.cfg) c s) := by
  have hexec : exec (.getReply c) s = getReply (crc8 s.cfg) c s := rfl
  rw [hexec, getReply, guardPointers_true hp]
  cases hc : s.cookieValid c with
  | true => rfl
  | false => rw [getReplyBody, hc]; rfl

/-- The answer to a found slot, given again. -/
theorem getReplyBody_of_found {i : Nat} (hc : s.cookieValid c = true) (ht : TxCheckPasses s c)
    (hf : findReply crc c s = (s, some i)) :
    getReplyBody crc c s = (deliver i s, Code.ofStatus (pktByte (s.pkt i) 3)) := by
  simp only [getReplyBody, hc, State.sync_eq, checkTxDesc_of_passes ht, hf]
  rfl

theorem getReplyBody_of_not_found (hc : s.cookieValid c = true) (ht : TxCheckPasses s c)
    (hf : findReply crc c s = (s, none)) : getReplyBody crc c s = (s, .replyNoReply) := by
  simp only [getReplyBody, hc, State.sync_eq, checkTxDesc_of_passes ht, hf]
  rfl

/-- After a search, whatever results are written, the cookie is as open, its transmission as checked and the packets
are as before, and the search finds the same slot. -/
theorem search_again {r : Results} (ht : (findReply crc c s).1.withRes r = t) (hc : s.cookieValid c = true)
    (hp : TxCheckPasses s c) :
    t.cookieValid c = true ∧ TxCheckPasses t c ∧ (∀ i, t.pkt i = s.pkt i) ∧
      findReply crc c t = (t, (findReply crc c s).2) := by
  have hagain := findReply_again (crc := crc) c s r
  rw [ht] at hagain
  refine ⟨?_, ?_, ?_, hagain⟩
  all_goals rw [← ht, findReply_frame]
  · exact hc
  · exact hp
  · exact fun _ => rfl

theorem deliver_of_long {i : Nat} (h : 13 ≤ (s.rxAt i).len.toNat) : deliver i s =
    s.withRes { s.res with replyPtr := (s.rxAt i).ptr + 12, replyLen := (s.rxAt i).len - 13 } := if_pos h

theorem deliver_of_short {i : Nat} (h : ¬13 ≤ (s.rxAt i).len.toNat) : deliver i s = s := if_neg h

/-- The delivery and the end of the command write results only. -/
theorem withRes_deliver_raise (i : Nat) (s : State) (code : Code) :
    s.withRes ((deliver i s).raise code).res = (deliver i s).raise code := by
  by_cases h : 13 ≤ (s.rxAt i).len.toNat
  · rw [deliver_of_long h]; rfl
  · rw [deliver_of_short h]; rfl

/-- The delivery done again is the same (rule R222). -/
theorem deliver_deliver_raise (i : Nat) (s : State) (code : Code) :
    (deliver i ((deliver i s).raise code)).raise code = (deliver i s).raise code := by
  have hrx : ((deliver i s).raise code).rxAt i = s.rxAt i := by rw [← withRes_deliver_raise]; rfl
  by_cases h : 13 ≤ (s.rxAt i).len.toNat
  · rw [deliver_of_long (s := (deliver i s).raise code) (hrx ▸ h), hrx, deliver_of_long h]
    rfl
  · rw [deliver_of_short (s := (deliver i s).raise code) (hrx ▸ h), deliver_of_short h]
    rfl

/-- What GET_REPLY leaves, it leaves again, but for the event of a link error, which comes once more. -/
theorem getReplyBody_again (ht : t = (getReplyBody crc c s).1.raise (getReplyBody crc c s).2) :
    complete (getReplyBody crc c t) = .next t ∨ (t.res.result = 0x0109 ∧
      complete (getReplyBody crc c t) =
        .next { t with events := t.events ++ [⟨.txLinkError, ((s.ctxAt c).txdesc : Int)⟩] }) := by
  rcases getReplyBody_cases (crc := crc) c s with ⟨hc, h⟩ | ⟨hc, ho, he, h⟩ | ⟨hc, ho, he, hl, h⟩ |
    ⟨hc, hp, hf, h⟩ | ⟨i, hc, hp, hf, h⟩ <;> rw [h] at ht
  case inl =>
    have hc' : t.cookieValid c = false := by rw [ht]; exact hc
    left
    rw [getReplyBody, hc', ht]
    rfl
  case inr.inl =>
    left
    have hbody : getReplyBody crc c t = (t, .replyNotYetSent) := by
      subst ht
      exact getReplyBody_of_checkTxDesc (s := s.raise _) hc (checkTxDesc_of_enabled (s := s.raise _) ho he)
    rw [hbody, ht]
    rfl
  case inr.inr.inl =>
    right
    have hbody : getReplyBody crc c t = (t.emit .txLinkError ((s.ctxAt c).txdesc : Int), .replyNotSent) := by
      subst ht
      exact getReplyBody_of_checkTxDesc (s := (s.emit .txLinkError ((s.ctxAt c).txdesc : Int)).raise _) hc
        (checkTxDesc_of_linkError (s := (s.emit .txLinkError ((s.ctxAt c).txdesc : Int)).raise _) ho he hl)
    rw [hbody, ht]
    exact ⟨rfl, rfl⟩
  case inr.inr.inr.inl =>
    left
    have hres : (findReply crc c s).1.withRes t.res = t := by rw [ht]; rfl
    obtain ⟨hc', hp', -, hagain⟩ := search_again hres hc hp
    rw [hf] at hagain
    rw [getReplyBody_of_not_found hc' hp' hagain, ht]
    rfl
  case inr.inr.inr.inr =>
    left
    have hres : (findReply crc c s).1.withRes t.res = t := by
      rw [ht]
      exact withRes_deliver_raise i _ _
    obtain ⟨hc', hp', hpkt, hagain⟩ := search_again hres hc hp
    rw [hf] at hagain
    have hdeliver := deliver_deliver_raise i (findReply crc c s).1 (Code.ofStatus (pktByte (s.pkt i) 3))
    dsimp only at ht
    rw [← ht] at hdeliver
    rw [getReplyBody_of_found hc' hp' hagain, hpkt]
    exact congrArg Host.Outcome.next hdeliver

/-! ## Polls (rules R280, R283, R285) -/

/-- The two codes after which a blocking command goes on waiting, by their numbers. -/
theorem keepsWaiting_iff (code : Code) : code.keepsWaiting = true ↔ code.toHalf = 0x010A ∨ code.toHalf = 0x0108 := by
  cases code with
  | spw k => revert k; decide
  | rmapStd b => revert b; decide
  | _ => decide

theorem sequencerTurn_of_blocking {start timeout : Nat} (hs : s.seq = .blocking c start timeout) :
    sequencerTurn crc s = poll crc c start timeout s := by
  rw [sequencerTurn, hs]

/-- Each shape of the next input at which a running blocking command is polled (rule R281; log 13). -/
theorem step_poll {s' : State} {start timeout : Nat} (hok : s.cfg.ok = true) (hs : s.seq = .blocking c start timeout)
    (ha : (s.env.agenda = [] ∧ s' = s) ∨ (∃ rest, s.env.agenda = .poll :: rest ∧ s' = s.withAgenda rest) ∨
      (∃ offset v rest, s.env.agenda = .write offset v :: rest ∧ s' = s) ∨
      (∃ offset rest, s.env.agenda = .read offset :: rest ∧ s' = s)) :
    step s = poll (crc8 s.cfg) c start timeout s' := by
  rcases ha with ⟨ha, rfl⟩ | ⟨rest, ha, rfl⟩ | ⟨offset, v, rest, ha, rfl⟩ | ⟨offset, rest, ha, rfl⟩
  · rw [step_of_ok hok, advance, ha]
    exact sequencerTurn_of_blocking hs
  · rw [step_of_ok hok, advance, ha]
    exact sequencerTurn_of_blocking (s := s.withAgenda rest) hs
  · exact step_access_of_blocking hok hs (.inl ha)
  · exact step_access_of_blocking (v := 0) hok hs (.inr ha)

/-- A poll whose answer ends the wait. -/
theorem pollBody_of_ends {start timeout : Nat} (h : (getReplyBody crc c s).2.keepsWaiting = false) :
    pollBody crc c start timeout s = endBlocking (getReplyBody crc c s) := by
  rw [pollBody, h]
  rfl

/-- A poll whose answer leaves the reply outstanding reads the timer once (rule R283). -/
theorem pollBody_of_waits {start timeout : Nat} (h : (getReplyBody crc c s).2.keepsWaiting = true) :
    ∃ e, InputsRead 0 0 1 s.env e ∧ (∀ d ∈ s.env.timerDraws.head?, e.timer = s.env.timer + d) ∧
      pollBody crc c start timeout s =
        if start + timeout ≤ e.timer then endBlocking ((getReplyBody crc c s).1.setEnv e, .replyTimeout)
        else .next ((getReplyBody crc c s).1.setEnv e) := by
  obtain ⟨e, hdraw, htimer, hread⟩ := (getReplyBody crc c s).1.drawTimer_eq
  have hhead := drawTimer_head (getReplyBody crc c s).1
  have henv : (getReplyBody crc c s).1.env = s.env := by
    obtain ⟨ft, events, ptr, len, hbody, -⟩ := getReplyBody_frame (crc := crc) c s
    rw [hbody]
  rw [henv] at hread hhead
  rw [htimer] at hhead
  refine ⟨e, hread, hhead, ?_⟩
  simp only [pollBody, h, ↓reduceIte, htimer, hdraw]

end Lemmas

/-! ## The statements -/

/-- Settles O31: the first GET_REPLY settles the slots it visits, so that the second finds the same slot. -/
theorem getReplyRepeats : Obligations.GetReplyRepeats := by
  intro s t c hexec
  have hget : exec (.getReply c) s = getReply (crc8 s.cfg) c s := rfl
  cases hc : s.cookieValid c with
  | false =>
    rw [hget, getReply, hc] at hexec
    have ht : t = s.raise .commandNoChannel := complete_next.1 hexec
    have hgetAgain : exec (.getReply c) t = getReply (crc8 t.cfg) c t := rfl
    have hc' : t.cookieValid c = false := by rw [ht]; exact hc
    left
    rw [hgetAgain, getReply, hc', ht]
    rfl
  | true =>
    rw [hget, getReply, hc] at hexec
    obtain ⟨hp, hexec⟩ := guardPointers_next.1 hexec
    have ht := complete_next.1 hexec
    obtain ⟨hcfg, hpt⟩ : t.cfg = s.cfg ∧ t.pointersInRange = true := by
      obtain ⟨ft, events, ptr, len, hbody, -⟩ := getReplyBody_frame (crc := crc8 s.cfg) c s
      rw [ht, hbody]
      exact ⟨rfl, hp⟩
    have hagain := getReplyBody_again ht
    rw [← hcfg] at hagain
    rw [exec_getReply hpt]
    exact hagain

/-- Settles O48: the step is a poll, and the code of its GET_REPLY decides which of the three ends it has. -/
theorem pollEndsOrWaits : Obligations.PollEndsOrWaits := by
  intro s s' c start timeout hok hs ha hp
  have hs' : s'.cfg = s.cfg ∧ s'.pointersInRange = true ∧ s'.res = s.res ∧ s'.env.timerDraws = s.env.timerDraws ∧
      s'.env.timer = s.env.timer := by
    rcases ha with ⟨-, rfl⟩ | ⟨rest, -, rfl⟩ | ⟨-, -, -, -, rfl⟩ | ⟨-, -, -, rfl⟩
    all_goals exact ⟨rfl, hp, rfl, rfl, rfl⟩
  obtain ⟨hcfg, hp', hres, hdraws, htimer⟩ := hs'
  rw [step_poll hok hs ha, poll, guardPointers_true hp', ← hcfg]
  refine ⟨_, exec_getReply hp', fun ⟨hnotYet, hnoReply⟩ => ?_, fun hwaits => ?_⟩
  · have hends : (getReplyBody (crc8 s'.cfg) c s').2.keepsWaiting = false :=
      Bool.eq_false_iff.2 fun h => ((keepsWaiting_iff _).1 h).elim hnotYet hnoReply
    rw [pollBody_of_ends hends]
    rfl
  · obtain ⟨e, hread, hhead, hbody⟩ :=
      pollBody_of_waits (start := start) (timeout := timeout) ((keepsWaiting_iff _).2 hwaits)
    rw [hdraws, htimer] at hhead
    refine ⟨e, hread, hhead, ?_⟩
    rw [hbody]
    split
    · rfl
    · have hresult : (getReplyBody (crc8 s'.cfg) c s').1.res.result = s.res.result := by
        obtain ⟨ft, events, ptr, len, hframe, -⟩ := getReplyBody_frame (crc := crc8 s'.cfg) c s'
        rw [hframe, hres]
      rw [← hresult]
      rfl

end Sys2Proof.Machine

/-! SET_PORT and SET_PORT_ADDR, accepted (spec/40_channel_control.md rules R165 to R168): the reset of the old binding,
the new binding, and its reset. The lemmas come first, then the statement they settle. -/

namespace Sys2Proof.Machine

open Sys2Proof

section Lemmas

variable {crc : List Byte → Byte} {s : State} {port : Int}

/-- A port of the device list with hardware CRC is not refused, and the command rebinds (rule R167). -/
theorem setPortBody_rebinds (h0 : 0 ≤ port) (hlt : port < (s.cfg.nPorts : Int))
    (hcrc : s.cfg.hwCrc.getD port.toNat false = true) (hp : s.pointersInRange = true) (dest src : Byte) :
    setPortBody crc port dest src s = complete (rebind crc port dest src s) := by
  have hat : hwCrcAt s.cfg port = true := hcrc
  have hne : port ≠ -1 := by omega
  have hr : portRefusal s.cfg port = none := by
    rw [portRefusal, if_neg hne, if_neg (by omega), hat]
    rfl
  rw [setPortBody, hr]
  exact (guardPointers_true hp _).trans (congrArg complete (if_neg hne))

/-- A port of the device list is bound in the register's terms. -/
theorem portByte_ne_unbound (h0 : 0 ≤ port) (hle : port ≤ 126) : portByte port ≠ 0xFF := by
  intro h
  have htoNat : (portByte port).toNat = port.toNat := portByte_toNat h0 (by omega)
  rw [h] at htoNat
  have hff : (0xFF : Byte).toNat = 255 := rfl
  omega

theorem newlyFailed_of_empty (h : s.regs.rxIndex = 0) : newlyFailed crc s = fun _ => false := by
  funext f
  rw [newlyFailed, h]
  rfl

/-- With no slot reserved the events of a reset are those of the port alone. -/
theorem resetEvents_congr_of_empty {s' : State} (h : s.regs.rxIndex = 0) (h' : s'.regs.rxIndex = 0)
    (hport : s'.regs.port = s.regs.port) (link : BitVec 3) (status : Word) (m : Nat) :
    resetEvents crc s' link status m = resetEvents crc s link status m := by
  rw [resetEvents, resetEvents, hport, newlyFailed_of_empty h, newlyFailed_of_empty h']

theorem head?_of_drop {α : Type} {l l' : List α} {n : Nat} (h : l' = l.drop n) : l'.head? = l[n]? := by
  rw [h, List.head?_drop]

/-- The state a rebinding leaves, but for the events and the readings. -/
def rebound (s : State) (port : Int) (dest src : Byte) : State :=
  { cleared s with
    regs := { s.regs with
      port := BitVec.ofInt 8 port, destAddr := dest, srcAddr := src
      hkPort := if s.cfg.hasHkMirror then BitVec.ofInt 8 port else s.regs.hkPort
      txIndex := 0, rxIndex := 0, arenaPtr := 0 }
    portReg := s.portReg.set port.toNat ⟨s.cfg.maxPacketLen, src⟩ }

/-- A rebinding with its events: those of the old binding's reset, and those of the new one's, which finds no reply
missed and nothing to classify. -/
theorem rebind_events {m : Nat} {dest src : Byte} (hbound : portByte port ≠ 0xFF) (hf : s.regs.rxIndex ≤ s.ft.length)
    (hm : MissedCount s m) :
    ∃ link status link' status' e e',
      (s.regs.port = 0xFF → e = s.env) ∧
      (s.regs.port ≠ 0xFF → InputsRead 1 1 0 s.env e ∧
        (∀ v ∈ s.env.linkDraws.head?, link = v) ∧ (∀ v ∈ s.env.statusDraws.head?, status = v)) ∧
      InputsRead 1 1 0 e e' ∧ (∀ v ∈ e.linkDraws.head?, link' = v) ∧ (∀ v ∈ e.statusDraws.head?, status' = v) ∧
      rebind crc port dest src s = ({ rebound s port dest src with
        events := s.events ++ [⟨.portSwitch, port⟩] ++ resetEvents crc s link status m ++
          resetEvents crc
            { cleared s with regs := { (cleared s).regs with port := BitVec.ofInt 8 port } } link' status' 0
        env := e' }, .ok) := by
  obtain ⟨link, status, e, hleave, hunbound, hold⟩ := leavePort_events (crc := crc) port hf hm
  have hempty : (bindPort port dest src (leavePort crc port s)).regs.rxIndex = 0 := by rw [hleave]; rfl
  obtain ⟨link', status', e', hreset, -, hnew⟩ :=
    resetBody_events (crc := crc) (s := bindPort port dest src (leavePort crc port s)) (by omega)
      (missedCount_zero hempty)
  have hport : (bindPort port dest src (leavePort crc port s)).regs.port = BitVec.ofInt 8 port := rfl
  have henv : (bindPort port dest src (leavePort crc port s)).env = e := by rw [hleave]; rfl
  obtain ⟨hread, hlink, hstatus⟩ := hnew hbound
  rw [henv] at hread hlink hstatus
  refine ⟨link, status, link', status', e, e', hunbound, hold, hread, hlink, hstatus, ?_⟩
  rw [rebind, hreset, resetBody_code_of_empty hempty,
    resetEvents_congr_of_empty (s := { cleared s with regs := { (cleared s).regs with port := BitVec.ofInt 8 port } })
      rfl hempty hport, hleave]
  rfl

end Lemmas

/-! ## The statement -/

/-- Settles O42: the accepted request rebinds; with an old port bound the readings of the two resets follow one another,
with none the only ones are the new port's. -/
theorem setPortBinds : Obligations.SetPortBinds := by
  intro s port i dest src m hi h0 hlt hports hcrc hp hf hm
  have hexec : exec i s = setPortBody (crc8 s.cfg) port dest src s := by
    rcases hi with ⟨rfl, rfl, rfl⟩ | ⟨rfl, rfl, rfl⟩ <;> rfl
  obtain ⟨link, status, link', status', e, e', hunbound, hold, hread, hlink, hstatus, hrebind⟩ :=
    rebind_events (crc := crc8 s.cfg) (dest := dest) (src := src) (portByte_ne_unbound h0 (by omega)) hf hm
  refine ⟨link, status, link', status', e', fun hport => ?_, fun hport => ?_, ?_⟩
  · obtain ⟨hread₁, hlink₁, hstatus₁⟩ := hold hport
    rw [head?_of_drop hread₁.linkDraws] at hlink
    rw [head?_of_drop hread₁.statusDraws] at hstatus
    exact ⟨hread₁.trans hread, hlink₁, hstatus₁, hlink, hstatus⟩
  · rw [hunbound hport] at hread hlink hstatus
    exact ⟨hread, hlink, hstatus⟩
  · rw [hexec, setPortBody_rebinds h0 hlt hcrc hp, hrebind]
    rfl

end Sys2Proof.Machine

/-! The round trips of a write and a read (spec/41_send.md rule R202): from a state with the invariant the command, the
transmission and the reception leave a state of which GET_REPLY's answer can be read off; a well-formed reply is
classified without a failure. The lemmas come first, then the statements they settle. -/

namespace Sys2Proof.Machine

open Sys2Proof

section Lemmas

variable {crc : List Byte → Byte} {s u v : State} {c t k : Nat}

/-! ## Well-formed replies (spec/43_validator.md rules R243 to R256) -/

/-- A packet in which a controller with the addresses `src` and `dest` finds no failure, and which answers a command
with instruction byte `ins` and id `tid`. -/
structure WellFormedReply (crc : List Byte → Byte) (src dest ins : Byte) (tid : Half) (p : List Byte) : Prop where
  length : lengthClass p.length ≠ .bad
  check : checkCrc crc p (lengthClass p.length) = true
  destination : pktByte p 0 = src
  protocol : pktByte p 1 = 0x01
  instruction : pktByte p 2 = ins &&& 0x3F
  direction : ins.getLsbD 5 = (lengthClass p.length == .writeReply)
  source : pktByte p 4 = dest
  tidH : pktByte p 5 = byteOf 1 tid
  tidL : pktByte p 6 = byteOf 0 tid
  announced : lengthClass p.length = .readReply → be24 (pktByte p 8) (pktByte p 9) (pktByte p 10) + 13 = p.length

theorem and_low6_and_typeBits (b : Byte) : b &&& 0x3F &&& 0xC0 = 0 := by
  rw [BitVec.and_assoc]
  exact BitVec.and_zero

theorem and_low6_and_low6 (b : Byte) : b &&& 0x3F &&& 0x3F = b &&& 0x3F := by rw [BitVec.and_assoc, BitVec.and_self]

theorem isWrite_and_low6 (b : Byte) : isWrite (b &&& 0x3F) = b.getLsbD 5 := by
  rw [isWrite, BitVec.getLsbD_and]
  exact Bool.and_true _

/-- The verdict on a well-formed reply that was received whole: classified, no failure. -/
theorem verdict_of_wellFormedReply {d : RxDesc} {ins : Byte} {tid : Half} {p : List Byte}
    (h : WellFormedReply crc s.regs.srcAddr s.regs.destAddr ins tid p) (hlen : d.len.toNat = p.length) (heep : d.eep = false)
    (htrunc : d.trunc = false) : verdict crc s d p = 0x0001 := by
  have hannounced : (lengthClass p.length == .readReply &&
      be24 (pktByte p 8) (pktByte p 9) (pktByte p 10) + rdReplyMinLen != p.length) = false := by
    by_cases hread : lengthClass p.length = .readReply
    · have hlength : be24 (pktByte p 8) (pktByte p 9) (pktByte p 10) + rdReplyMinLen = p.length := h.announced hread
      rw [hlength, bne_self_eq_false, Bool.and_false]
    · rw [beq_eq_false_iff_ne.2 hread, Bool.false_and]
  have htype : (pktByte p 2 &&& typeBits != 0) = false := by
    rw [h.instruction, typeBits, and_low6_and_typeBits]
    rfl
  rw [verdict_of_good (hlen ▸ h.length), hlen, heep, htrunc, h.check, checkRmapHeader, h.destination, h.protocol, htype,
    h.instruction, isWrite_and_low6, h.direction, h.source, hannounced]
  simp [Failure.maskIf, classifiedBit, protocolId]

section Replies

variable (src dest ins status : Byte) (tid : Half)

theorem lengthClass_writeReply : lengthClass (writeReply crc src dest ins status tid).length = .writeReply := rfl

theorem length_readReply (data : List Byte) :
    (readReply crc src dest ins status tid data).length = 12 + data.length + 1 := by
  have hhead : (readReplyHead src dest ins status tid data.length).length = 11 := rfl
  simp only [readReply, List.length_append, hhead, List.length_singleton]

theorem lengthClass_readReply (data : List Byte) :
    lengthClass (readReply crc src dest ins status tid data).length = .readReply := by
  rw [length_readReply]
  exact lengthClass_of_long (by omega)

/-- The three bytes of a 24-bit number, most significant first (rule R11). -/
theorem be24_extractLsb' (v : BitVec 24) :
    be24 (v.extractLsb' 16 8) (v.extractLsb' 8 8) (v.extractLsb' 0 8) = v.toNat := by
  have hv := v.isLt
  simp only [be24, BitVec.extractLsb'_toNat, Nat.shiftRight_eq_div_pow]
  omega

variable (laws : CrcLaws crc)
include laws

/-- A write reply as the spec builds it is well-formed (spec/30_encoding.md rule R118). -/
theorem wellFormedReply_writeReply (hins : ins.getLsbD 5 = true) :
    WellFormedReply crc src dest ins tid (writeReply crc src dest ins status tid) where
  length := by rw [lengthClass_writeReply]; decide
  check := (packetsWithTheirCrcPass crc (replyHead src dest ins status tid) [] laws).1 rfl
  destination := rfl
  protocol := rfl
  instruction := rfl
  direction := hins
  source := rfl
  tidH := rfl
  tidL := rfl
  announced h := by cases h

/-- A read reply as the spec builds it is well-formed (spec/30_encoding.md rule R120). -/
theorem wellFormedReply_readReply (hins : ins.getLsbD 5 = false) {data : List Byte} (hdata : data.length < 2 ^ 24) :
    WellFormedReply crc src dest ins tid (readReply crc src dest ins status tid data) where
  length := by rw [lengthClass_readReply]; decide
  check := by
    rw [lengthClass_readReply]
    exact (packetsWithTheirCrcPass crc (readReplyHead src dest ins status tid data.length) data laws).2 rfl
  destination := rfl
  protocol := rfl
  instruction := rfl
  direction := by
    rw [lengthClass_readReply]
    exact hins
  source := rfl
  tidH := rfl
  tidL := rfl
  announced _ := by
    have hbytes := be24_extractLsb' (BitVec.ofNat 24 data.length)
    rw [BitVec.toNat_ofNat, Nat.mod_eq_of_lt hdata] at hbytes
    rw [length_readReply]
    exact congrArg (· + 13) hbytes |>.trans (by omega)

end Replies

/-! ## Three steps (rules R190 to R199, R333, R336) -/

/-- The step at an idle port whose next input is a well-formed command. -/
theorem step_command {i : Instr} {rest : List Input} (hok : s.cfg.ok = true) (hs : s.seq = .idle)
    (hi : i.wellFormed = true) (ha : s.env.agenda = .write 0x00 (encode i) :: rest) :
    step s = exec i (s.withAgenda rest) :=
  stepRunsTheCommand s (encode i) rest i hok hs ha (decodeEncode i hi)

theorem step_dmaTx_of_enabled {rest : List Input} (hinv : RunInv s) (ha : s.env.agenda = .dmaTx k :: rest)
    (hport : s.regs.port ≠ 0xFF) (hen : (s.txAt k).en = true) :
    step s = .next (transmitted (crc8 s.cfg) k (s.withAgenda rest)) := by
  rw [step_dmaTx hinv.config ha, dmaTx_next]
  exact ⟨txEnabled_iff.2 ⟨hport, hen⟩, hinv.pointers, rfl⟩

theorem step_dmaRx_of_enabled {rest : List Input} {pkt : List Byte} {eep : Bool} (hinv : RunInv s)
    (ha : s.env.agenda = .dmaRx k pkt eep :: rest) (hport : s.regs.port ≠ 0xFF) (hen : (s.rxAt k).en = true) :
    step s = .next (received k pkt eep (s.withAgenda rest)) := by
  rw [step_dmaRx hinv.config ha, dmaRx_next]
  exact ⟨rxEnabled_iff.2 ⟨hport, hen⟩, hinv.pointers, rfl⟩

/-- What is left of `s` once `ins` is sent on cookie `c`, as far as the agent and GET_REPLY look at it: TX slot `t` holds
`tx`, the reserved RX slot holds `rx`. -/
structure InFlight (s : State) (c t : Nat) (ins : Byte) (tx : TxDesc) (rx : RxDesc) (u : State) : Prop where
  inv : RunInv u
  idle : u.seq = .idle
  cfg : u.cfg = s.cfg
  port : u.regs.port = s.regs.port
  srcAddr : u.regs.srcAddr = s.regs.srcAddr
  destAddr : u.regs.destAddr = s.regs.destAddr
  cookie : u.cookieValid c = true
  ctx : u.ctxAt c = (s.ctxAt c).afterSend s ins s.args.len t
  txSlot : u.txAt t = tx
  rxSlot : u.rxAt s.regs.rxIndex = rx
  unclassified : u.ftAt s.regs.rxIndex = 0
  replyPtr : u.res.replyPtr = s.res.replyPtr
  replyLen : u.res.replyLen = s.res.replyLen

/-- The send (rules R190 to R199). -/
theorem step_send {instruction ins : Byte} {rest : List Input} (hinv : RunInv s) (hidle : s.seq = .idle)
    (haccepts : SendAccepts c instruction s.args.len t s) (hins : ins = instruction ||| (s.ctxAt c).mask)
    (ha : s.env.agenda = .write 0x00 (encode (.sendCommand c instruction)) :: rest) :
    ∃ u, step s = .next u ∧ u.env.agenda = rest ∧
      InFlight s c t ins (programmedTx c (isWrite ins) s.args.ptr s.args.len)
        (reservedRx s.regs.arenaPtr (slotSize (isWrite ins) s.args.len)) u := by
  have hcookie := (s.cookieValid_iff c).1 haccepts.cookie
  have hb := Build.ok_bounds hinv.config
  have hwellFormed : (Instr.sendCommand c instruction).wellFormed = true := decide_eq_true (show c < 256 by omega)
  have haccepts' : SendAccepts c instruction s.args.len t (s.withAgenda rest) := { haccepts with }
  have hexec : exec (.sendCommand c instruction) (s.withAgenda rest) =
      .next (ended (commitSend c ins s.args.ptr s.args.len t (s.withAgenda rest)) 0x0000) := by
    rw [hins]
    exact exec_sendCommand_of_sendBody (sendBody_of_accepts (s := s.withAgenda rest) haccepts')
  have hstep := (step_command hinv.config hidle hwellFormed ha).trans hexec
  refine ⟨_, hstep, rfl, ?_⟩
  have htx : t < s.tx.length := hinv.txLength ▸ haccepts.slot_lt
  have hrx : s.regs.rxIndex < s.rx.length := hinv.rxLength ▸ haccepts.rxSlot
  have hctx : c < s.ctx.length := State.lt_length_of_cookieValid haccepts.cookie
  exact
    { inv := stepKeepsInv _ _ hinv hstep
      idle := hidle
      cfg := rfl
      port := rfl
      srcAddr := rfl
      destAddr := rfl
      cookie := cookieValid_commitSend (s := s.withAgenda rest) haccepts.cookie ins s.args.ptr s.args.len t
      ctx := (commitSend_ctxAt c ins s.args.ptr s.args.len t (s.withAgenda rest) c).trans (if_pos ⟨rfl, hctx⟩)
      txSlot := (commitSend_txAt c ins s.args.ptr s.args.len t (s.withAgenda rest) t).trans (if_pos ⟨rfl, htx⟩)
      rxSlot := commitSend_rxAt_rxIndex (s := s.withAgenda rest) ins s.args.ptr s.args.len t hrx
      unclassified := (hinv.unreserved _ le_rfl).2
      replyPtr := rfl
      replyLen := rfl }

/-- The transmission (rule R333). -/
theorem InFlight.transmit {ins : Byte} {tx : TxDesc} {rx : RxDesc} {rest : List Input} (h : InFlight s c t ins tx rx u)
    (hport : s.regs.port ≠ 0xFF) (hen : tx.en = true) (ha : u.env.agenda = .dmaTx t :: rest) :
    ∃ v, step u = .next v ∧ v.env.agenda = rest ∧ InFlight s c t ins tx.sent rx v := by
  have hstep := step_dmaTx_of_enabled h.inv ha (h.port ▸ hport) (h.txSlot ▸ hen)
  refine ⟨_, hstep, rfl, ?_⟩
  have hlt : t < u.tx.length := by
    by_contra hge
    rw [← h.txSlot, State.txAt, List.getD_eq_default _ _ (not_lt.1 hge)] at hen
    cases hen
  exact
    { h with
      inv := stepKeepsInv _ _ h.inv hstep
      txSlot := by
        rw [← h.txSlot]
        exact (getD_set u.tx t t (u.txAt t).sent TxDesc.zero).trans (if_pos ⟨rfl, hlt⟩) }

/-- The reception of a packet of the slot's size (rule R336). -/
theorem InFlight.receive {ins : Byte} {tx : TxDesc} {rx : RxDesc} {pkt : List Byte} {rest : List Input}
    (h : InFlight s c t ins tx rx u) (hport : s.regs.port ≠ 0xFF) (hen : rx.en = true) (hlen : pkt.length = rx.len.toNat)
    (ha : u.env.agenda = .dmaRx s.regs.rxIndex pkt false :: rest) :
    ∃ v, step u = .next v ∧ v.env.agenda = rest ∧ InFlight s c t ins tx (rx.received pkt.length false false) v ∧
      v.arena.readBytes rx.ptr.toNat pkt.length = pkt := by
  have hstep := step_dmaRx_of_enabled h.inv ha (h.port ▸ hport) (h.rxSlot ▸ hen)
  have hwhole : pkt.take rx.len.toNat = pkt := List.take_of_length_le hlen.le
  have hlong : decide (rx.len.toNat < pkt.length) = false := decide_eq_false (by omega)
  refine ⟨_, hstep, rfl, ?_, ?_⟩
  · have hlt : s.regs.rxIndex < u.rx.length := by
      by_contra hge
      rw [← h.rxSlot, State.rxAt, List.getD_eq_default _ _ (not_lt.1 hge)] at hen
      cases hen
    have hdesc : (u.rxAt s.regs.rxIndex).received (pkt.take (u.rxAt s.regs.rxIndex).len.toNat).length
        (decide ((u.rxAt s.regs.rxIndex).len.toNat < pkt.length)) false = rx.received pkt.length false false := by
      rw [h.rxSlot, hwhole, hlong]
    exact
      { h with
        inv := stepKeepsInv _ _ h.inv hstep
        rxSlot := by
          rw [← hdesc]
          exact (getD_set u.rx _ _ _ RxDesc.zero).trans (if_pos ⟨rfl, hlt⟩) }
  · have harena : (received s.regs.rxIndex pkt false (u.withAgenda rest)).arena = u.arena.writeBytes rx.ptr.toNat pkt := by
      change u.arena.writeBytes (u.rxAt s.regs.rxIndex).ptr.toNat (pkt.take (u.rxAt s.regs.rxIndex).len.toNat) = _
      rw [h.rxSlot, hwhole]
    rw [harena, Mem.readBytes_writeBytes h.inv.arenaForm]

/-! ## The search that finds its reply first (rules R216 to R220) -/

theorem scanOrder_eq_cons (s : State) (c : Nat) :
    ∃ rest, scanOrder s c = (s.ctxAt c).rxdescIndex :: rest := by
  rw [scanOrder, List.range_succ, List.reverse_append]
  exact ⟨_, rfl⟩

section First

variable (h : satisfies crc s c (s.ctxAt c).rxdescIndex = true)
include h

/-- The remembered slot is looked at first. -/
theorem firstMatch_of_first : firstMatch crc s c = some (s.ctxAt c).rxdescIndex := by
  obtain ⟨rest, horder⟩ := scanOrder_eq_cons s c
  rw [firstMatch, horder, List.find?_cons_of_pos h]

theorem mem_visited_of_first : (s.ctxAt c).rxdescIndex ∈ visited crc s c := by
  obtain ⟨rest, horder⟩ := scanOrder_eq_cons s c
  rw [visited, horder, upToFirst, if_pos h]
  exact List.mem_singleton_self _

theorem tableAfterScan_getD_of_first (hlt : (s.ctxAt c).rxdescIndex < s.ft.length) :
    (tableAfterScan crc s c).getD (s.ctxAt c).rxdescIndex 0 = entryAfter crc s (s.ctxAt c).rxdescIndex := by
  rw [tableAfterScan, List.getD_eq_getElem _ _ (by rw [List.length_map, List.length_range]; exact hlt), List.getElem_map,
    List.getElem_range, if_pos (mem_visited_of_first h)]

end First

/-- Without a check that fails and with the ids equal, the slot matches. -/
theorem satisfies_of_wellFormedReply {crc' : List Byte → Byte} {src dest ins : Byte} {tid : Half} {p : List Byte} {i : Nat}
    (h : WellFormedReply crc' src dest ins tid p) (hentry : entryAfter crc s i = 0x0001) (hpkt : s.pkt i = p)
    (hins : (s.ctxAt c).hdr.instruction = ins) (htidH : (s.ctxAt c).hdr.tidH = byteOf 1 tid)
    (htidL : (s.ctxAt c).hdr.tidL = byteOf 0 tid) : satisfies crc s c i = true := by
  rw [satisfies, hentry, hpkt, hins, htidH, htidL, h.tidH, h.tidL, h.instruction, and_low6_and_low6]
  simp only [beq_self_eq_true, Bool.and_self]

theorem lengthClass_zero : lengthClass 0 = .bad := rfl

section Reply

/-- The descriptor of a reserved slot after `pkt` was received whole. -/
def replySlot (s : State) (pkt : List Byte) : RxDesc :=
  ⟨0, BitVec.ofNat 32 s.regs.arenaPtr, BitVec.ofNat 32 pkt.length⟩

/-- It is completed, with no error flag. -/
theorem replySlot_flags (s : State) (pkt : List Byte) :
    (replySlot s pkt).en = false ∧ (replySlot s pkt).eep = false ∧ (replySlot s pkt).trunc = false :=
  ⟨BitVec.getLsbD_zero, BitVec.getLsbD_zero, BitVec.getLsbD_zero⟩

variable {ins : Byte} {tx : TxDesc} {pkt : List Byte} (h : InFlight s c t ins tx (replySlot s pkt) u)
  (hroom : s.regs.arenaPtr + pkt.length ≤ s.cfg.arenaSize)
  (hstored : u.arena.readBytes s.regs.arenaPtr pkt.length = pkt)
  (hwell : WellFormedReply (crc8 s.cfg) s.regs.srcAddr s.regs.destAddr ins s.regs.tidNext pkt)
include h

theorem InFlight.rxdescIndex_eq : (u.ctxAt c).rxdescIndex = s.regs.rxIndex := by
  rw [h.ctx]
  rfl

include hroom

theorem InFlight.replySlot_toNat : (replySlot s pkt).ptr.toNat = s.regs.arenaPtr ∧
    (replySlot s pkt).len.toNat = pkt.length := by
  have hb := Build.ok_bounds h.inv.config
  rw [h.cfg] at hb
  rw [replySlot, BitVec.toNat_ofNat, BitVec.toNat_ofNat, Nat.mod_eq_of_lt (by omega), Nat.mod_eq_of_lt (by omega)]
  exact ⟨rfl, rfl⟩

include hstored

theorem InFlight.pkt_eq : u.pkt s.regs.rxIndex = pkt := by
  obtain ⟨hptr, hlen⟩ := h.replySlot_toNat hroom
  rw [State.pkt, h.rxSlot, hptr, hlen, hstored]

include hwell

/-- The reply's slot is ready and its packet has no failure. -/
theorem InFlight.entryAfter_eq : entryAfter (crc8 u.cfg) u s.regs.rxIndex = 0x0001 := by
  obtain ⟨-, hlen⟩ := h.replySlot_toNat hroom
  obtain ⟨hen, heep, htrunc⟩ := replySlot_flags s pkt
  have hready : (replySlot s pkt).ready = true := by
    refine RxDesc.ready_iff.2 ⟨hen, fun hzero => ?_⟩
    rw [hzero.2.2] at hlen
    exact hwell.length (hlen ▸ lengthClass_zero)
  rw [entryAfter, h.unclassified, h.rxSlot, if_neg (by decide), if_pos hready, h.pkt_eq hroom hstored]
  rw [← h.cfg, ← h.srcAddr, ← h.destAddr] at hwell
  exact verdict_of_wellFormedReply hwell hlen heep htrunc

theorem InFlight.satisfies : satisfies (crc8 u.cfg) u c (u.ctxAt c).rxdescIndex = true := by
  rw [h.rxdescIndex_eq]
  refine satisfies_of_wellFormedReply hwell (h.entryAfter_eq hroom hstored hwell) (h.pkt_eq hroom hstored) ?_ ?_ ?_
  all_goals rw [h.ctx]; rfl

/-- The last step of the round trip: GET_REPLY finds the well-formed reply in the reserved slot. -/
theorem InFlight.getReply {rest : List Input} (hen : tx.en = false) (hle : tx.le = false)
    (ha : u.env.agenda = .write 0x00 (encode (.getReply c)) :: rest) :
    ∃ v, step u = .next v ∧ v.env.agenda = rest ∧ v.res.result = statusCode (pktByte pkt 3) ∧
      v.ftAt s.regs.rxIndex = 0x0001 ∧ v.arena = u.arena ∧
      v.res.replyPtr = (if 13 ≤ pkt.length then (replySlot s pkt).ptr + 12 else s.res.replyPtr) ∧
      v.res.replyLen = (if 13 ≤ pkt.length then (replySlot s pkt).len - 13 else s.res.replyLen) := by
  obtain ⟨hc, hvalid⟩ := (u.cookieValid_iff c).1 h.cookie
  have hb := Build.ok_bounds h.inv.config
  have hindex := h.rxdescIndex_eq
  obtain ⟨-, hlen⟩ := h.replySlot_toNat hroom
  have hsatisfies := h.satisfies hroom hstored hwell
  have hpass : TxCheckPasses u c := fun _ => by
    have htxdesc : (u.ctxAt c).txdesc = t := by rw [h.ctx]; rfl
    rw [htxdesc, h.txSlot]
    exact ⟨hen, hle⟩
  have hmatch : firstMatch (crc8 u.cfg) u c = some s.regs.rxIndex := hindex ▸ firstMatch_of_first hsatisfies
  have hexec := getReplyDelivers (u.withAgenda rest) c s.regs.rxIndex (.getReply c) (.inl rfl) hc hvalid
    h.inv.pointers h.inv.ftLength hpass hmatch
  have hwellFormed : (Instr.getReply c).wellFormed = true := decide_eq_true (show c < 256 by omega)
  refine ⟨_, (step_command h.inv.config h.idle hwellFormed ha).trans hexec, rfl, ?_, ?_, rfl, ?_⟩
  · change statusCode (pktByte (u.pkt s.regs.rxIndex) 3) = _
    rw [h.pkt_eq hroom hstored]
  · have hlt : (u.ctxAt c).rxdescIndex < u.ft.length :=
      h.inv.ftLength ▸ rxdescIndex_lt_of_cookieValid h.inv.pointers h.cookie
    have htable := tableAfterScan_getD_of_first hsatisfies hlt
    rw [hindex, h.entryAfter_eq hroom hstored hwell] at htable
    exact htable
  · have hrx : (u.withAgenda rest).rxAt s.regs.rxIndex = replySlot s pkt := h.rxSlot
    rw [hrx, hlen]
    split
    · exact ⟨rfl, rfl⟩
    · exact ⟨h.replyPtr, h.replyLen⟩

end Reply

/-! ## The whole trip -/

theorem programmedTx_en (c : Nat) (write : Bool) (ptr datalen : Word) : (programmedTx c write ptr datalen).en = true := by
  rw [TxDesc.en, programmedTx_ctrl]
  cases write <;> decide

theorem programmedTx_sent_le (c : Nat) (write : Bool) (ptr datalen : Word) :
    (programmedTx c write ptr datalen).sent.le = false := by
  change ((programmedTx c write ptr datalen).ctrl &&& ~~~(0x1 : Word)).getLsbD 1 = false
  rw [programmedTx_ctrl]
  cases write <;> decide

theorem reservedRx_en (arenaPtr size : Nat) : (reservedRx arenaPtr size).en = true := by
  have hbit : rxCtrlReserved.getLsbD 0 = true := by decide
  exact hbit

theorem reservedRx_received (s : State) (size : Nat) (pkt : List Byte) :
    (reservedRx s.regs.arenaPtr size).received pkt.length false false = replySlot s pkt := by
  have hctrl : (rxCtrlReserved &&& ~~~(0x7 : Word)) ||| (if false then 0x2 else 0) ||| (if false then 0x4 else 0) = 0 := by
    decide
  rw [RxDesc.received, reservedRx, hctrl, replySlot]

/-- Send, transmission, reception of a well-formed reply of the slot's size, GET_REPLY: the status, the slot validated,
the packet in the arena; the payload registers say where, if the packet is long enough to have a payload. -/
theorem run_roundTrip {instruction ins : Byte} {pkt : List Byte} (hinv : RunInv s) (hidle : s.seq = .idle)
    (haccepts : SendAccepts c instruction s.args.len t s) (hins : ins = instruction ||| (s.ctxAt c).mask)
    (hlen : pkt.length = slotSize (isWrite ins) s.args.len)
    (hwell : WellFormedReply (crc8 s.cfg) s.regs.srcAddr s.regs.destAddr ins s.regs.tidNext pkt)
    (ha : s.env.agenda = [.write 0x00 (encode (.sendCommand c instruction)), .dmaTx t,
      .dmaRx s.regs.rxIndex pkt false, .write 0x00 (encode (.getReply c))]) :
    s.regs.arenaPtr + pkt.length ≤ s.cfg.arenaSize ∧
    ∃ u, Host.Core.run core 4 s = .next u ∧ u.env.agenda = [] ∧ u.res.result = statusCode (pktByte pkt 3) ∧
      u.ftAt s.regs.rxIndex = 0x0001 ∧ u.arena.readBytes s.regs.arenaPtr pkt.length = pkt ∧
      u.res.replyPtr = (if 13 ≤ pkt.length then (replySlot s pkt).ptr + 12 else s.res.replyPtr) ∧
      u.res.replyLen = (if 13 ≤ pkt.length then (replySlot s pkt).len - 13 else s.res.replyLen) := by
  have hroom : s.regs.arenaPtr + slotSize (isWrite ins) s.args.len ≤ s.cfg.arenaSize := by
    have hle := (haccepts.size_le hinv.config).2
    rw [← hins] at hle
    have hpos := slotSize_pos (isWrite ins) s.args.len
    omega
  obtain ⟨hptr, hsize⟩ := reservedRx_toNat hinv.config hroom
  obtain ⟨s₁, hstep₁, ha₁, h₁⟩ := step_send hinv hidle haccepts hins ha
  obtain ⟨s₂, hstep₂, ha₂, h₂⟩ := h₁.transmit haccepts.port (programmedTx_en ..) ha₁
  obtain ⟨s₃, hstep₃, ha₃, h₃, hstored⟩ :=
    h₂.receive haccepts.port (reservedRx_en ..) (hlen.trans hsize.symm) ha₂
  rw [reservedRx_received] at h₃
  rw [hptr] at hstored
  rw [← hlen] at hroom
  obtain ⟨u, hstep₄, ha₄, hresult, hentry, harena, hreplyPtr, hreplyLen⟩ :=
    h₃.getReply hroom hstored hwell (TxDesc.en_sent _) (programmedTx_sent_le ..) ha₃
  refine ⟨hroom, u, ?_, ha₄, hresult, hentry, harena ▸ hstored, hreplyPtr, hreplyLen⟩
  rw [core_run_succ (M := core) hstep₁, core_run_succ (M := core) hstep₂, core_run_succ (M := core) hstep₃,
    core_run_succ (M := core) hstep₄]
  rfl

theorem Mem.drop_readBytes (m : Mem) : ∀ (k n a : Nat), (m.readBytes a (k + n)).drop k = m.readBytes (a + k) n
  | 0, n, a => by rw [Nat.zero_add]; rfl
  | k + 1, n, a => by
    rw [Nat.succ_add, Mem.readBytes, List.drop_succ_cons, Mem.drop_readBytes m k n (a + 1), Nat.add_assoc, Nat.add_comm 1 k]

/-- The data of a stored read reply begin twelve bytes past its start (rule R120). -/
theorem readBytes_data {m : Mem} {a : Nat} {src dest ins status : Byte} {tid : Half} {data : List Byte}
    (h : m.readBytes a (readReply crc src dest ins status tid data).length = readReply crc src dest ins status tid data) :
    m.readBytes (a + 12) data.length = data := by
  rw [length_readReply, Nat.add_assoc] at h
  have hhead : (readReplyHead src dest ins status tid data.length ++
      [crc (readReplyHead src dest ins status tid data.length)]).length = 12 := rfl
  have hdrop : (readReply crc src dest ins status tid data).drop 12 = data ++ [crc data] := by
    rw [readReply, List.append_assoc, List.drop_left' hhead]
  rw [← Mem.take_readBytes m (n := data.length + 1) _ (Nat.le_succ _), ← Mem.drop_readBytes, h, hdrop, List.take_left]

end Lemmas

/-! ## The statements -/

/-- Settles O59: a write reply is well-formed, has the size of the slot, and is too short for a payload. -/
theorem writeRoundTrip : Obligations.WriteRoundTrip := by
  intro s c instruction ins status t hinv hidle haccepts hins hwrite ha
  have hlen : (writeReply (crc8 s.cfg) s.regs.srcAddr s.regs.destAddr ins status s.regs.tidNext).length =
      slotSize (isWrite ins) s.args.len := by
    rw [isWrite, hwrite]
    rfl
  have hwell := wellFormedReply_writeReply s.regs.srcAddr s.regs.destAddr ins status s.regs.tidNext
    (crcLaws_of_ok hinv.config) hwrite
  obtain ⟨-, u, hrun, hagenda, hresult, hentry, -, hreplyPtr, hreplyLen⟩ :=
    run_roundTrip hinv hidle haccepts hins hlen hwell ha
  exact ⟨u, hrun, hresult, hreplyPtr, hreplyLen, hentry, hagenda⟩

/-- Settles O60: a read reply is well-formed, has the size of the slot, and has its data twelve bytes past the start. -/
theorem readRoundTrip : Obligations.ReadRoundTrip := by
  intro s c instruction ins status t data hinv hidle haccepts hins hread hdata ha
  have hb := Build.ok_bounds hinv.config
  have hshort : data.length < 2 ^ 24 := by
    have hle := haccepts.length
    rw [← hins, hread] at hle
    simp only [Bool.false_eq_true, ↓reduceIte] at hle
    omega
  have hpkt := length_readReply (crc := crc8 s.cfg) s.regs.srcAddr s.regs.destAddr ins status s.regs.tidNext data
  have hlen : (readReply (crc8 s.cfg) s.regs.srcAddr s.regs.destAddr ins status s.regs.tidNext data).length =
      slotSize (isWrite ins) s.args.len := by
    rw [hpkt, isWrite, hread, hdata]
    rfl
  have hwell := wellFormedReply_readReply s.regs.srcAddr s.regs.destAddr ins status s.regs.tidNext
    (crcLaws_of_ok hinv.config) hread hshort
  obtain ⟨hroom, u, hrun, hagenda, hresult, hentry, hstored, hreplyPtr, hreplyLen⟩ :=
    run_roundTrip hinv hidle haccepts hins hlen hwell ha
  rw [hpkt] at hroom
  rw [if_pos (by omega)] at hreplyPtr hreplyLen
  have hptr : u.res.replyPtr.toNat = s.regs.arenaPtr + 12 := by
    have h12 : (12 : Word).toNat = 12 := rfl
    rw [hreplyPtr, replySlot, BitVec.toNat_add, BitVec.toNat_ofNat, h12]
    omega
  have hreplyLen' : u.res.replyLen = s.args.len := by
    have h13 : (13 : Word).toNat = 13 := rfl
    apply BitVec.eq_of_toNat_eq
    rw [hreplyLen, replySlot, hpkt, BitVec.toNat_sub, BitVec.toNat_ofNat, h13]
    omega
  refine ⟨u, hrun, hresult, hptr, hreplyLen', ?_, hentry, hagenda⟩
  rw [hptr, hreplyLen', ← hdata]
  exact readBytes_data hstored

end Sys2Proof.Machine
